-- ==== Sys2Proof/Word.lean ====
section
/-! DEFINITION. The word types of the block: the spec's u8, u16 and the 32-bit command word (00_scope.md R7;
30_encoding.md R60). -/

namespace Sys2Proof

/-- u8: a data byte, an 8-bit register, a device id, a page count. -/
abbrev Byte := BitVec 8

/-- u16: an address, the program counter, a count, the data of a response. -/
abbrev Half := BitVec 16

/-- A command word, or a packed response. -/
abbrev Word := BitVec 32

end Sys2Proof
end

