-- ==== Sys2Proof/Config.lean ====
section
/-! DEFINITION. The parameters of the block (00_scope.md R4): the pinned constants of the address map, the
descriptors of the device pool (20_memory.md R42 to R48), and the values the spec leaves open, as opaque
constants that nothing can evaluate. What the operations of a device DO is in Machine/Devices.lean. -/

namespace Sys2Proof

/-- Bytes in the global address space: ADDR_BITS = 16 (R4, 20_memory.md R40). -/
def Config.spaceBytes : Nat := 65536

/-- PAGE_BYTES, pinned (R4, decision D7, log 14). -/
def Config.pageBytes : Nat := 256

/-- TOTAL_PAGES, derived from the two above (R4). -/
def Config.totalPages : Nat := Config.spaceBytes / Config.pageBytes

/-- The bytes a storing device holds, by local address, in canonical form (`Memory.wf`): addresses strictly
rising, no entry equal to what an unlisted address reads as. -/
abbrev Memory := List Host.Cell

/-- HardwareError: a fatality flag and diagnostic text, immutable (60_exceptions.md R130, R131). -/
structure HardwareError where
  fatal   : Bool
  message : String
deriving DecidableEq, Repr, Inhabited

/-- What a device's read yields: one byte, or an error of the device's own (20_memory.md R43). -/
inductive ReadReply where
  | byte  (v : Byte)
  | error (e : HardwareError)
deriving DecidableEq, Repr, Inhabited

/-- What a device's write yields: success with no value, or an error of the device's own (20_memory.md R43). -/
inductive WriteReply where
  | done
  | error (e : HardwareError)
deriving DecidableEq, Repr, Inhabited

/-- The internal state of a device, devstate[d] (10_state.md R26), as plain data. -/
inductive DevState where
  /-- A device without state (Empty, Discard, the ROM fixtures). -/
  | none
  /-- A device that stores bytes (the RAM fixtures). -/
  | bytes (m : Memory)
  /-- A device that holds one 8-bit count (the counting fixture). -/
  | count (c : Byte)
  /-- The state of an uninterpreted device, coded as a number (log 4). -/
  | code (n : Nat)
deriving DecidableEq, Repr, Inhabited

/-- How an Addressable device answers (20_memory.md R43, R45): the reference device Discard, the fixtures of
95_test_vectors.md section 2, and a device of which nothing is known. -/
inductive Behaviour where
  /-- Discard (20_memory.md R48). -/
  | discard
  /-- Ram2, Ram255: stores each byte at its local address. -/
  | ram
  /-- RomSoft, RomHard: reads a byte made of the local address, refuses every write with the given fatality. -/
  | rom (fatalWrite : Bool)
  /-- Ctr: a count that each read advances and each write sets. -/
  | counter
  /-- Any other device: its answers and next states are free values, `key` names which device it is (log 4). -/
  | general (key : Nat)
deriving DecidableEq, Repr

/-- The chain of capabilities (20_memory.md R42): an Addressable device has a behaviour, a SizedAddressable
one a page count besides, fixed at construction (R44). -/
inductive Capability where
  | identityOnly
  | addressable (b : Behaviour)
  | sizedAddressable (b : Behaviour) (sizePages : Byte)
deriving DecidableEq, Repr

/-- A descriptor DEV[d] of the device pool (20_memory.md R45). No rule reads `name`. -/
structure Descriptor where
  name : String
  cap  : Capability
  init : DevState
deriving DecidableEq, Repr

/-- The probe for Addressable: present with the device's behaviour, or absent (20_memory.md R46). -/
def Capability.behaviour? : Capability → Option Behaviour
  | .identityOnly => none
  | .addressable b => some b
  | .sizedAddressable b _ => some b

/-- The probe for SizedAddressable: present with the page count, or absent (20_memory.md R46). -/
def Capability.sizePages? : Capability → Option Byte
  | .identityOnly => none
  | .addressable _ => none
  | .sizedAddressable _ n => some n

/-- FREE VALUE (log 4): what the uninterpreted device `key`, in state `code`, answers to a read at a local
address, and its next state (20_memory.md R45, decision D15). -/
opaque Config.generalRead : (key code : Nat) → Half → ReadReply × Nat

/-- FREE VALUE (log 4): what the uninterpreted device `key`, in state `code`, answers to a write at a local
address, and its next state (20_memory.md R45, decision D15). -/
opaque Config.generalWrite : (key code : Nat) → Half → Byte → WriteReply × Nat

/-- FREE VALUE (log 9): the data bits of the packed form of the n-th response when it is not OK
(30_encoding.md R66; 93_implementation_defined.md U13). -/
opaque Config.invalidData : Nat → Half

/-- FREE VALUES (log 8): the texts the block itself produces (decision D20). No rule reads a message. -/
opaque Config.msgUnmapped : String
@[inherit_doc Config.msgUnmapped] opaque Config.msgNotAddressable : String
@[inherit_doc Config.msgUnmapped] opaque Config.msgAllocZero : String
@[inherit_doc Config.msgUnmapped] opaque Config.msgAllocDup : String
@[inherit_doc Config.msgUnmapped] opaque Config.msgAllocFull : String
@[inherit_doc Config.msgUnmapped] opaque Config.msgNotSized : String
@[inherit_doc Config.msgUnmapped] opaque Config.msgIllegal : String
@[inherit_doc Config.msgUnmapped] opaque Config.msgHalted : String

end Sys2Proof
end

