-- ==== Sys2Proof/Syntax.lean ====
section
/-! DEFINITION. The decoded commands: one constructor of Instr per row of spec/opcode_table.json
(30_encoding.md R63, R70), operands of the widths of R62. -/

namespace Sys2Proof

/-- The closed set of eight flags of `p` (10_state.md R16; 30_encoding.md R69; 43_flags.md R124). -/
inductive Flag where
  | carry
  | zero
  | interruptDisable
  | decimalMode
  | breakCommand
  | unused
  | overflow
  | negative
deriving DecidableEq, Repr

/-- A command (30_encoding.md R63). -/
inductive Instr where
  /-- GET_PC (41_register_access.md R90). -/
  | getPc
  /-- GET_SP (R91). -/
  | getSp
  /-- GET_A (R92). -/
  | getA
  /-- GET_X (R93). -/
  | getX
  /-- GET_Y (R94). -/
  | getY
  /-- GET_P (R95). -/
  | getP
  /-- SET_PC v16 (R96). -/
  | setPc (v16 : Half)
  /-- SET_SP v8 (R97). -/
  | setSp (v8 : Byte)
  /-- SET_A v8 (R98). -/
  | setA (v8 : Byte)
  /-- SET_X v8 (R99). -/
  | setX (v8 : Byte)
  /-- SET_Y v8 (R100). -/
  | setY (v8 : Byte)
  /-- SET_P v8 (R101). -/
  | setP (v8 : Byte)
  /-- INC_PC n (42_counters.md R110). -/
  | incPc (n : Half)
  /-- DEC_PC n (R111). -/
  | decPc (n : Half)
  /-- INC_SP n (R112). -/
  | incSp (n : Half)
  /-- DEC_SP n (R113). -/
  | decSp (n : Half)
  /-- GET_FLAG flag (43_flags.md R120). -/
  | getFlag (flag : Flag)
  /-- SET_FLAG flag, value (R121). -/
  | setFlag (flag : Flag) (value : Bool)
  /-- TOGGLE_FLAG flag (R122). -/
  | toggleFlag (flag : Flag)
  /-- BUS_READ addr (40_bus.md R81). -/
  | busRead (addr : Half)
  /-- BUS_WRITE addr, data (R82). -/
  | busWrite (addr : Half) (data : Byte)
  /-- BUS_ATTACH dev (R80). -/
  | busAttach (dev : Byte)
deriving DecidableEq, Repr

end Sys2Proof
end

