-- ==== Sys2Proof/WellFormed.lean ====
section
/-! DEFINITION. The checks on commands, descriptors and pools that their types leave open. -/

namespace Sys2Proof

/-- A command is well formed over a pool of `ndev` devices when the device it names is in the pool
(30_encoding.md R64 (c), R70). Every other operand is legal at every value (10_state.md R20; 30_encoding.md R62). -/
def Instr.wf (ndev : Nat) : Instr → Bool
  | .getPc | .getSp | .getA | .getX | .getY | .getP => true
  | .setPc _ | .setSp _ | .setA _ | .setX _ | .setY _ | .setP _ => true
  | .incPc _ | .decPc _ | .incSp _ | .decSp _ => true
  | .getFlag _ | .setFlag _ _ | .toggleFlag _ => true
  | .busRead _ | .busWrite _ _ => true
  | .busAttach dev => decide (dev.toNat < ndev)

/-- The canonical form of stored bytes from address `from_` on: strictly rising 16-bit addresses, no listed zero. -/
def Memory.wfFrom (from_ : Nat) : Memory → Bool
  | [] => true
  | (a, v) :: rest => decide (from_ ≤ a) && decide (a < 65536) && decide (v ≠ 0#8) && Memory.wfFrom (a + 1) rest

/-- The canonical form of stored bytes, so that equal contents are equal lists. -/
def Memory.wf (m : Memory) : Bool := Memory.wfFrom 0 m

/-- A device state is of the kind its behaviour declares (20_memory.md R45), a storing device's in canonical form. -/
def Behaviour.accepts : Behaviour → DevState → Bool
  | .discard, .none => true
  | .rom _, .none => true
  | .ram, .bytes m => m.wf
  | .counter, .count _ => true
  | .general _, .code _ => true
  | _, _ => false

/-- A device's state is of the kind its descriptor declares; a device without operations has none (20_memory.md R47). -/
def Descriptor.accepts (d : Descriptor) (st : DevState) : Bool :=
  match d.cap.behaviour? with
  | some b => b.accepts st
  | none => decide (st = .none)

/-- A device pool is well formed: at most 256 devices, each with an initial state of its own kind (20_memory.md R45). -/
def poolWf (pool : List Descriptor) : Bool :=
  decide (pool.length ≤ 256) && pool.all fun d => d.accepts d.init

end Sys2Proof
end

