-- ==== Sys2Proof/Decode.lean ====
section
/-! DEFINITION. The command decoder, total on 32-bit words and rejecting by name, then the encoder written from
the same encoding tables (30_encoding.md R60 to R65, R69, R71), and the rows of the opcode table. -/

namespace Sys2Proof

/-! ### Fields of a word -/

/-- `op`, bits 31:24 (R60). -/
def Word.op (c : Word) : Byte := c.extractLsb' 24 8

/-- `w`, bits 23:8 (R60). -/
def Word.w (c : Word) : Half := c.extractLsb' 8 16

/-- `b`, bits 7:0 (R60). -/
def Word.b (c : Word) : Byte := c.extractLsb' 0 8

/-- `b[2:0]`, the flag selector of formats F and FV (R61). -/
def Word.flagBits (c : Word) : BitVec 3 := c.extractLsb' 0 3

/-- `b[3]`, the value of format FV (R61). -/
def Word.valueBit (c : Word) : Bool := c.getLsbD 3

/-- `b[7:3]`, must be zero in format F (R61). -/
def Word.upperF (c : Word) : BitVec 5 := c.extractLsb' 3 5

/-- `b[7:4]`, must be zero in format FV (R61). -/
def Word.upperFV (c : Word) : BitVec 4 := c.extractLsb' 4 4

/-- The index of a flag, its bit in `p` and its encoding (R69; 10_state.md R16). -/
def Flag.index : Flag → Nat
  | .carry => 0
  | .zero => 1
  | .interruptDisable => 2
  | .decimalMode => 3
  | .breakCommand => 4
  | .unused => 5
  | .overflow => 6
  | .negative => 7

/-- The flag a 3-bit selector names; every selector names one (R62, R69; 43_flags.md R124). -/
def Flag.ofBits (i : BitVec 3) : Flag :=
  match i.toFin with
  | 0 => .carry
  | 1 => .zero
  | 2 => .interruptDisable
  | 3 => .decimalMode
  | 4 => .breakCommand
  | 5 => .unused
  | 6 => .overflow
  | 7 => .negative

/-! ### Decoding -/

/-- Why a word spells no command (R64). -/
inductive Reject where
  /-- (a) `op` is not one of the 22 values. -/
  | unassignedOpcode
  /-- (b) a must-be-zero bit of the format is 1. -/
  | mustBeZero
  /-- (c) BUS_ATTACH of a device id at or above NDEV. -/
  | noSuchDevice
deriving DecidableEq, Repr

/-- Format N: no operand (R61). -/
def decodeN (c : Word) (i : Instr) : Except Reject Instr :=
  if c.w = 0 ∧ c.b = 0 then .ok i else .error .mustBeZero

/-- Format W: a 16-bit operand in `w` (R61). -/
def decodeW (c : Word) (i : Half → Instr) : Except Reject Instr :=
  if c.b = 0 then .ok (i c.w) else .error .mustBeZero

/-- Format B: an 8-bit operand in `b` (R61). -/
def decodeB (c : Word) (i : Byte → Instr) : Except Reject Instr :=
  if c.w = 0 then .ok (i c.b) else .error .mustBeZero

/-- Format WB: both operands (R61). -/
def decodeWB (c : Word) (i : Half → Byte → Instr) : Except Reject Instr :=
  .ok (i c.w c.b)

/-- Format F: a flag selector in `b[2:0]` (R61). -/
def decodeF (c : Word) (i : Flag → Instr) : Except Reject Instr :=
  if c.w = 0 ∧ c.upperF = 0 then .ok (i (Flag.ofBits c.flagBits)) else .error .mustBeZero

/-- Format FV: a flag selector in `b[2:0]`, a value in `b[3]` (R61). -/
def decodeFV (c : Word) (i : Flag → Bool → Instr) : Except Reject Instr :=
  if c.w = 0 ∧ c.upperFV = 0 then .ok (i (Flag.ofBits c.flagBits) c.valueBit) else .error .mustBeZero

/-- The row of the opcode map a word's `op` selects (R63), its operands read by the row's format. -/
def decodeRow (c : Word) : Except Reject Instr :=
  match c.op with
  | 0x10#8 => decodeN c .getPc
  | 0x11#8 => decodeN c .getSp
  | 0x12#8 => decodeN c .getA
  | 0x13#8 => decodeN c .getX
  | 0x14#8 => decodeN c .getY
  | 0x15#8 => decodeN c .getP
  | 0x20#8 => decodeW c .setPc
  | 0x21#8 => decodeB c .setSp
  | 0x22#8 => decodeB c .setA
  | 0x23#8 => decodeB c .setX
  | 0x24#8 => decodeB c .setY
  | 0x25#8 => decodeB c .setP
  | 0x30#8 => decodeW c .incPc
  | 0x31#8 => decodeW c .decPc
  | 0x32#8 => decodeW c .incSp
  | 0x33#8 => decodeW c .decSp
  | 0x40#8 => decodeF c .getFlag
  | 0x41#8 => decodeFV c .setFlag
  | 0x42#8 => decodeF c .toggleFlag
  | 0x50#8 => decodeW c .busRead
  | 0x51#8 => decodeWB c .busWrite
  | 0x52#8 => decodeB c .busAttach
  | _ => .error .unassignedOpcode

/-- The decoder of a block whose pool has `ndev` devices: total, and it reads nothing but the word and NDEV
(R64, R71). -/
def decode (ndev : Nat) (c : Word) : Except Reject Instr :=
  match decodeRow c with
  | .ok i => if i.wf ndev then .ok i else .error .noSuchDevice
  | .error r => .error r

/-- The decoder on a word numbered as spec/opcode_table.json numbers it, for the largest pool (log 10). -/
def decodeTableWord (nbits w : Nat) : Option Instr :=
  (decode 256 (BitVec.ofNat 32 (w % 2 ^ nbits))).toOption

/-! ### Encoding -/

/-- A word from its three fields (R60). -/
def Word.ofFields (op : Byte) (w : Half) (b : Byte) : Word := op ++ w ++ b

/-- The flag selector of a flag (R69). -/
def Flag.bits (f : Flag) : BitVec 3 := BitVec.ofNat 3 f.index

/-- The `b` field of format F (R61): five zeros, then the selector. -/
def flagField (f : Flag) : Byte := 0#5 ++ f.bits

/-- The `b` field of format FV (R61): four zeros, the value, then the selector. -/
def flagValueField (f : Flag) (v : Bool) : Byte := 0#4 ++ BitVec.ofBool v ++ f.bits

/-- The word of a command (R61, R63, R68). -/
def encode : Instr → Word
  | .getPc => Word.ofFields 0x10 0 0
  | .getSp => Word.ofFields 0x11 0 0
  | .getA => Word.ofFields 0x12 0 0
  | .getX => Word.ofFields 0x13 0 0
  | .getY => Word.ofFields 0x14 0 0
  | .getP => Word.ofFields 0x15 0 0
  | .setPc v => Word.ofFields 0x20 v 0
  | .setSp v => Word.ofFields 0x21 0 v
  | .setA v => Word.ofFields 0x22 0 v
  | .setX v => Word.ofFields 0x23 0 v
  | .setY v => Word.ofFields 0x24 0 v
  | .setP v => Word.ofFields 0x25 0 v
  | .incPc n => Word.ofFields 0x30 n 0
  | .decPc n => Word.ofFields 0x31 n 0
  | .incSp n => Word.ofFields 0x32 n 0
  | .decSp n => Word.ofFields 0x33 n 0
  | .getFlag f => Word.ofFields 0x40 0 (flagField f)
  | .setFlag f v => Word.ofFields 0x41 0 (flagValueField f v)
  | .toggleFlag f => Word.ofFields 0x42 0 (flagField f)
  | .busRead a => Word.ofFields 0x50 a 0
  | .busWrite a d => Word.ofFields 0x51 a d
  | .busAttach d => Word.ofFields 0x52 0 d

/-! ### How the spec writes a command (R68); nothing reads it -/

/-- The long name of a flag (10_state.md R16). -/
def Flag.name : Flag → String
  | .carry => "Carry"
  | .zero => "Zero"
  | .interruptDisable => "InterruptDisable"
  | .decimalMode => "DecimalMode"
  | .breakCommand => "BreakCommand"
  | .unused => "Unused"
  | .overflow => "Overflow"
  | .negative => "Negative"

/-- A hexadecimal digit, in capitals. -/
def hexDigit (n : Nat) : Char := if n < 10 then Char.ofNat (48 + n) else Char.ofNat (55 + n)

/-- `0x` and the digits of a byte. -/
def hexByte (v : Byte) : String := String.ofList ['0', 'x', hexDigit (v.toNat / 16), hexDigit (v.toNat % 16)]

/-- `0x` and the digits of a 16-bit value. -/
def hexHalf (v : Half) : String :=
  String.ofList ['0', 'x', hexDigit (v.toNat / 4096), hexDigit (v.toNat / 256 % 16),
    hexDigit (v.toNat / 16 % 16), hexDigit (v.toNat % 16)]

/-- The mnemonic, then the operands with commas: values and addresses in hexadecimal, counts and devices in decimal. -/
def Instr.text : Instr → String
  | .getPc => "GET_PC"
  | .getSp => "GET_SP"
  | .getA => "GET_A"
  | .getX => "GET_X"
  | .getY => "GET_Y"
  | .getP => "GET_P"
  | .setPc v => "SET_PC " ++ hexHalf v
  | .setSp v => "SET_SP " ++ hexByte v
  | .setA v => "SET_A " ++ hexByte v
  | .setX v => "SET_X " ++ hexByte v
  | .setY v => "SET_Y " ++ hexByte v
  | .setP v => "SET_P " ++ hexByte v
  | .incPc n => "INC_PC " ++ n.toNat.repr
  | .decPc n => "DEC_PC " ++ n.toNat.repr
  | .incSp n => "INC_SP " ++ n.toNat.repr
  | .decSp n => "DEC_SP " ++ n.toNat.repr
  | .getFlag f => "GET_FLAG " ++ f.name
  | .setFlag f v => "SET_FLAG " ++ f.name ++ ", " ++ (if v then "1" else "0")
  | .toggleFlag f => "TOGGLE_FLAG " ++ f.name
  | .busRead a => "BUS_READ " ++ hexHalf a
  | .busWrite a d => "BUS_WRITE " ++ hexHalf a ++ ", " ++ hexByte d
  | .busAttach d => "BUS_ATTACH dev " ++ d.toNat.repr

/-! ### The opcode table -/

/-- A row of the opcode table: a word matches it when `c & mask = value` (R61). -/
structure OpcodeRow where
  mask  : Word
  value : Word
deriving DecidableEq, Repr

/-- The match of a word with a row (R61). -/
def OpcodeRow.matches (r : OpcodeRow) (c : Word) : Bool := decide (c &&& r.mask = r.value)

/-- The row of a command: the mask of its format and its opcode in bits 31:24 (R61, R63). -/
def Instr.row : Instr → OpcodeRow
  | .getPc => ⟨0xFFFFFFFF, 0x10000000⟩
  | .getSp => ⟨0xFFFFFFFF, 0x11000000⟩
  | .getA => ⟨0xFFFFFFFF, 0x12000000⟩
  | .getX => ⟨0xFFFFFFFF, 0x13000000⟩
  | .getY => ⟨0xFFFFFFFF, 0x14000000⟩
  | .getP => ⟨0xFFFFFFFF, 0x15000000⟩
  | .setPc _ => ⟨0xFF0000FF, 0x20000000⟩
  | .setSp _ => ⟨0xFFFFFF00, 0x21000000⟩
  | .setA _ => ⟨0xFFFFFF00, 0x22000000⟩
  | .setX _ => ⟨0xFFFFFF00, 0x23000000⟩
  | .setY _ => ⟨0xFFFFFF00, 0x24000000⟩
  | .setP _ => ⟨0xFFFFFF00, 0x25000000⟩
  | .incPc _ => ⟨0xFF0000FF, 0x30000000⟩
  | .decPc _ => ⟨0xFF0000FF, 0x31000000⟩
  | .incSp _ => ⟨0xFF0000FF, 0x32000000⟩
  | .decSp _ => ⟨0xFF0000FF, 0x33000000⟩
  | .getFlag _ => ⟨0xFFFFFFF8, 0x40000000⟩
  | .setFlag _ _ => ⟨0xFFFFFFF0, 0x41000000⟩
  | .toggleFlag _ => ⟨0xFFFFFFF8, 0x42000000⟩
  | .busRead _ => ⟨0xFF0000FF, 0x50000000⟩
  | .busWrite _ _ => ⟨0xFF000000, 0x51000000⟩
  | .busAttach _ => ⟨0xFFFFFF00, 0x52000000⟩

/-- The 22 rows, in the order of R63. -/
def opcodeTable : List OpcodeRow :=
  [.getPc, .getSp, .getA, .getX, .getY, .getP].map Instr.row
  ++ [.setPc 0, .setSp 0, .setA 0, .setX 0, .setY 0, .setP 0].map Instr.row
  ++ [.incPc 0, .decPc 0, .incSp 0, .decSp 0].map Instr.row
  ++ [.getFlag .carry, .setFlag .carry false, .toggleFlag .carry].map Instr.row
  ++ [.busRead 0, .busWrite 0 0, .busAttach 0].map Instr.row

end Sys2Proof
end

