-- ==== Sys2Proof/Machine/Flags.lean ====
section
/-! DEFINITION. The flag computations on the status register (43_flags.md R120 to R122). No other computation of
the block reads or writes a flag (10_state.md R18). -/

namespace Sys2Proof.Machine

/-- `1 << i`, the mask of flag i (10_state.md R16; 43_flags.md R121). -/
def flagMask (f : Flag) : Byte := 1#8 <<< f.index

/-- `p[i]` (R120). -/
def flagGet (p : Byte) (f : Flag) : Bool := p.getLsbD f.index

/-- `p | (1 << i)` or `p & ~(1 << i)` (R121). -/
def flagSet (p : Byte) (f : Flag) (value : Bool) : Byte :=
  if value then p ||| flagMask f else p &&& ~~~flagMask f

/-- `p ^ (1 << i)` (R122). -/
def flagToggle (p : Byte) (f : Flag) : Byte := p ^^^ flagMask f

end Sys2Proof.Machine
end

