-- ==== Sys2Proof/Machine/Devices.lean ====
section
/-! DEFINITION. What a device does: its two operations as total functions of its state and their arguments
alone (20_memory.md R43, R45), the bytes a storing device holds, the two reference devices (R47, R48) and the
device pool of 95_test_vectors.md section 2. -/

namespace Sys2Proof.Machine

/-! ### The bytes of a storing device -/

/-- The byte at an address. An unlisted one reads 0x00, the fixture's initial value (95_test_vectors.md section 2, log 5). -/
def memRead : Memory → Nat → Byte
  | [], _ => 0
  | (b, v) :: rest, a => if a = b then v else memRead rest a

/-- A new first entry, unless it would say what an unlisted address says already. -/
def memCons (a : Nat) (v : Byte) (m : Memory) : Memory := if v = 0 then m else (a, v) :: m

/-- The store of one byte, keeping the canonical form. -/
def memWrite : Memory → Nat → Byte → Memory
  | [], a, v => memCons a v []
  | (b, u) :: rest, a, v =>
    if a < b then memCons a v ((b, u) :: rest)
    else if a = b then memCons a v rest
    else (b, u) :: memWrite rest a v

/-! ### States of the kind a behaviour declares (log 15) -/

/-- The bytes of a storing device. -/
def stateBytes : DevState → Memory
  | .bytes m => m
  | _ => []

/-- The count of the counting device. -/
def stateCount : DevState → Byte
  | .count c => c
  | _ => 0

/-- The code of an uninterpreted device's state. -/
def stateCode : DevState → Nat
  | .code n => n
  | _ => 0

/-! ### The two operations -/

/-- The error a ROM fixture answers to a write. -/
def writeProtected (fatal : Bool) : HardwareError := ⟨fatal, "write-protected"⟩

/-- The byte a ROM fixture reads: the sum of the two bytes of the local address, modulo 256. -/
def romByte (l : Half) : Byte := l.setWidth 8 + (l >>> 8).setWidth 8

/-- DEV[d].read: the reply and the next state (20_memory.md R45, R48; 95_test_vectors.md section 2). -/
def devRead (b : Behaviour) (st : DevState) (l : Half) : ReadReply × DevState :=
  match b with
  | .discard => (.byte 0, st)
  | .ram => (.byte (memRead (stateBytes st) l.toNat), st)
  | .rom _ => (.byte (romByte l), st)
  | .counter => (.byte (stateCount st), .count (stateCount st + 1))
  | .general key => ((Config.generalRead key (stateCode st) l).1, .code (Config.generalRead key (stateCode st) l).2)

/-- DEV[d].write: the reply and the next state (20_memory.md R45, R48; 95_test_vectors.md section 2). -/
def devWrite (b : Behaviour) (st : DevState) (l : Half) (v : Byte) : WriteReply × DevState :=
  match b with
  | .discard => (.done, st)
  | .ram => (.done, .bytes (memWrite (stateBytes st) l.toNat v))
  | .rom fatalWrite => (.error (writeProtected fatalWrite), st)
  | .counter => (.done, .count v)
  | .general key =>
    ((Config.generalWrite key (stateCode st) l v).1, .code (Config.generalWrite key (stateCode st) l v).2)

/-! ### Descriptors -/

/-- The reference device Empty: no capability (20_memory.md R47). -/
def deviceEmpty : Descriptor := ⟨"Empty", .identityOnly, .none⟩

/-- The reference device Discard, of the page count fixed at construction (20_memory.md R48, decision D16). -/
def deviceDiscard (pages : Byte) : Descriptor := ⟨"Discard", .sizedAddressable .discard pages, .none⟩

/-- The device pool of 95_test_vectors.md section 2, device id by device id (log 3, log 5). -/
def vectorPool : List Descriptor :=
  [ deviceEmpty,
    deviceDiscard 1,
    ⟨"Ram2", .sizedAddressable .ram 2, .bytes []⟩,
    ⟨"RomSoft", .sizedAddressable (.rom false) 1, .none⟩,
    ⟨"RomHard", .sizedAddressable (.rom true) 1, .none⟩,
    ⟨"Ram255", .sizedAddressable .ram 255, .bytes []⟩,
    ⟨"Zero", .sizedAddressable .discard 0, .none⟩,
    ⟨"Ctr", .sizedAddressable .counter 1, .count 0⟩,
    ⟨"Bare", .addressable .discard, .none⟩ ]

end Sys2Proof.Machine
end

