-- ==== Sys2Proof/Machine/State.lean ====
section
/-! DEFINITION. The state of the block as plain data (10_state.md R10), the responses it gives, the reasons a
step stops, and reset. -/

namespace Sys2Proof.Machine

/-- An entry of the bus mapping (10_state.md R22). -/
structure Slot where
  base  : Half
  pages : Byte
  dev   : Byte
deriving DecidableEq, Repr

/-- The response to one command (30_encoding.md R66, R67), a sum type, so that only OK carries a value (decision
D19). Its status code, fatality, message and packed form are in Machine/Response.lean. -/
inductive Response where
  /-- OK with `data`, 0x0000 for a command that returns no value. -/
  | ok (data : Half)
  /-- DEVICE_ERROR: the error the device chose, forwarded unchanged. -/
  | deviceError (e : HardwareError)
  /-- UNMAPPED: no device owns the address. -/
  | unmapped
  /-- NOT_ADDRESSABLE: the owning device lacks the Addressable capability. -/
  | notAddressable
  /-- ALLOC_ZERO_PAGES. -/
  | allocZeroPages
  /-- ALLOC_ALREADY_ATTACHED. -/
  | allocAlreadyAttached
  /-- ALLOC_EXHAUSTED. -/
  | allocExhausted
  /-- NOT_SIZED: the device is not SizedAddressable. -/
  | notSized
  /-- ILLEGAL: the word spells no command. -/
  | illegal
  /-- HALTED: the block is halted, the command was not performed. -/
  | halted
deriving DecidableEq, Repr

/-- The state of the block. `pool` is configuration that no step changes (log 3); `commands` and `responses` are
the two ends of the command port, the model's own (log 1, log 2); all else is the list of 10_state.md R10. -/
structure State where
  /-- Program counter (R11). -/
  pc        : Half
  /-- Stack pointer (R12). -/
  sp        : Byte
  /-- Accumulator (R13). -/
  a         : Byte
  /-- Index register X (R14). -/
  x         : Byte
  /-- Index register Y (R15). -/
  y         : Byte
  /-- Status register, flag i in bit i (R16). -/
  p         : Byte
  /-- The bus mapping, in attachment order (R22). -/
  slots     : List Slot
  /-- next_page: the number of pages allocated, a 9-bit counter (R24). -/
  nextPage  : BitVec 9
  /-- devstate[d], by device id (R26). -/
  devstate  : List DevState
  /-- The halt latch (R27). -/
  halted    : Bool
  /-- DEV, by device id; NDEV is its length (20_memory.md R45). -/
  pool      : List Descriptor
  /-- The command words the host still has to issue, next one first (00_scope.md R5, R6). -/
  commands  : List Word
  /-- The responses given, newest first (30_encoding.md R66). -/
  responses : List Response
deriving DecidableEq, Repr

/-- Why a step stops with a fault. -/
inductive Fault where
  /-- Raised by `step` alone, when the host presents no further command: the run has ended (70_reset_and_hazards.md
  R163, log 1). Safe: nothing is claimed of a step that does not happen. -/
  | noCommand
deriving DecidableEq, Repr

/-- Why a step is refused. -/
inductive Refusal where
  /-- Raised by an arm of `exec` whose instruction has no meaning yet; no arm raises it. Safe. -/
  | notModelled (mnemonic : String)
deriving DecidableEq, Repr

/-- The block over a given device pool right after reset (10_state.md R31; 70_reset_and_hazards.md R151). -/
def State.resetWith (pool : List Descriptor) : State where
  pc := 0
  sp := 0
  a := 0
  x := 0
  y := 0
  p := 0
  slots := []
  nextPage := 0
  devstate := pool.map Descriptor.init
  halted := false
  pool := pool
  commands := []
  responses := []

/-- The block right after reset, over the pool of 95_test_vectors.md section 2 (log 3). -/
def State.reset : State := State.resetWith vectorPool

end Sys2Proof.Machine
end

