-- ==== Sys2Proof/Machine/Operands.lean ====
section
/-! DEFINITION. Operand assembly (30_encoding.md R62) and the results a response carries (R66). Every operand is
taken from its field as an unsigned integer; none is signed, scaled or shifted. -/

namespace Sys2Proof.Machine

/-- The count of the pc counters, used whole (R62). -/
def pcCount (n : Half) : Nat := n.toNat

/-- The count of the sp counters, of which only n mod 256 matters (R62, decision D5). -/
def spCount (n : Half) : Nat := n.toNat % 256

/-- The device id of BUS_ATTACH, an index into DEV (R62). -/
def deviceId (dev : Byte) : Nat := dev.toNat

/-- zext_16 of an 8-bit result (R66; 00_scope.md R7). -/
def zext16 (v : Byte) : Half := v.setWidth 16

/-- zext_16 of a one-bit result (R66; 43_flags.md R120). -/
def zext16Bit (v : Bool) : Half := (BitVec.ofBool v).setWidth 16

/-- The data of a command that returns no value (R66). -/
def noValue : Half := 0

end Sys2Proof.Machine
end

