-- ==== Sys2Proof/Machine/Response.lean ====
section
/-! DEFINITION. The fields of a response (30_encoding.md R66) and the status codes (R67). -/

namespace Sys2Proof.Machine

/-- `status` (R67). -/
def Response.status : Response → BitVec 4
  | .ok _ => 0
  | .deviceError _ => 1
  | .unmapped => 2
  | .notAddressable => 3
  | .allocZeroPages => 4
  | .allocAlreadyAttached => 5
  | .allocExhausted => 6
  | .notSized => 7
  | .illegal => 8
  | .halted => 9

/-- `fatal` (R67; 60_exceptions.md R132, R133). -/
def Response.fatal : Response → Bool
  | .ok _ => false
  | .deviceError e => e.fatal
  | .unmapped => true
  | .notAddressable => true
  | .allocZeroPages => false
  | .allocAlreadyAttached => false
  | .allocExhausted => false
  | .notSized => false
  | .illegal => false
  | .halted => false

/-- `data`, valid only with OK (R66). -/
def Response.data? : Response → Option Half
  | .ok d => some d
  | .deviceError _ | .unmapped | .notAddressable | .allocZeroPages | .allocAlreadyAttached | .allocExhausted
  | .notSized | .illegal | .halted => none

/-- `message`: empty with OK, a device's forwarded unchanged, else the block's own text (R66; 60_exceptions.md R130; log 8). -/
def Response.message : Response → String
  | .ok _ => ""
  | .deviceError e => e.message
  | .unmapped => Config.msgUnmapped
  | .notAddressable => Config.msgNotAddressable
  | .allocZeroPages => Config.msgAllocZero
  | .allocAlreadyAttached => Config.msgAllocDup
  | .allocExhausted => Config.msgAllocFull
  | .notSized => Config.msgNotSized
  | .illegal => Config.msgIllegal
  | .halted => Config.msgHalted

/-- The packed form of the n-th response (R66): status in 31:28, fatal in 24, data in 15:0, zeros between. The data
bits of a response that is not OK are a free value (log 9). -/
def Response.pack (n : Nat) (r : Response) : Word :=
  r.status ++ 0#3 ++ BitVec.ofBool r.fatal ++ 0#8 ++ r.data?.getD (Config.invalidData n)

/-- The response to the command performed last. -/
def State.lastResponse (s : State) : Option Response := s.responses.head?

end Sys2Proof.Machine
end

