-- ==== Sys2Proof/Machine/Ops.lean ====
section
/-! DEFINITION. The named operations the meanings share: the command port, answering, taking an exception, the
halt gate, the registers, the wrapping counters, the bus decoder and the allocator. -/

namespace Sys2Proof.Machine

/-! ### The command port -/

/-- Take the next command word the host presents, if there is one (00_scope.md R5; log 1). -/
def State.takeCommand (s : State) : Option (Word × State) :=
  match s.commands with
  | [] => none
  | c :: rest => some (c, { s with commands := rest })

/-- `respond`: end the command with a response and no further state change (00_scope.md R7). -/
def State.respond (s : State) (r : Response) : State := { s with responses := r :: s.responses }

/-! ### Exceptions -/

/-- `raise`: TAKE AN EXCEPTION. The error is answered, and a fatal one sets the halt latch (60_exceptions.md R139). It
saves nothing, writes no register, flag or table and goes to no vector (R140). There is NO RETURN: nothing but reset
leaves the halted state (R144; 10_state.md R27), and a non-fatal error leaves nothing pending. -/
def State.raise (s : State) (r : Response) : State :=
  { s with halted := s.halted || r.fatal, responses := r :: s.responses }

/-- The halt gate, first in every command: a halted block answers HALTED and does nothing (60_exceptions.md R141). -/
def gated (s : State) (perform : State → State) : Host.Outcome State Fault Refusal :=
  .next (if s.halted then s.raise .halted else perform s)

/-- Reset of a running block, an event outside the command stream: a fresh block over the same pool, nothing
survives (70_reset_and_hazards.md R150, R151; log 12). -/
def State.hostReset (s : State) : State := State.resetWith s.pool

/-! ### Registers: a set changes exactly the register it names (10_state.md R19, R20) -/

/-- `pc <- v` (10_state.md R11). -/
def State.setPc (s : State) (v : Half) : State := { s with pc := v }

/-- `sp <- v` (10_state.md R12). -/
def State.setSp (s : State) (v : Byte) : State := { s with sp := v }

/-- `a <- v` (10_state.md R13). -/
def State.setA (s : State) (v : Byte) : State := { s with a := v }

/-- `x <- v` (10_state.md R14). -/
def State.setX (s : State) (v : Byte) : State := { s with x := v }

/-- `y <- v` (10_state.md R15). -/
def State.setY (s : State) (v : Byte) : State := { s with y := v }

/-- `p <- v`, all eight flags (10_state.md R16, R17). -/
def State.setP (s : State) (v : Byte) : State := { s with p := v }

/-! ### Counters: the one helper that decides the overflow policy (42_counters.md R114, log 13) -/

/-- `wrap_add(N, r, n) = (r + n) mod 2^N`. -/
def wrapAdd (N : Nat) (r : BitVec N) (n : Nat) : BitVec N := BitVec.ofNat N (r.toNat + n)

/-- `wrap_sub(N, r, n) = (r - n) mod 2^N`, computed exactly and narrowed. -/
def wrapSub (N : Nat) (r : BitVec N) (n : Nat) : BitVec N := BitVec.ofInt N ((r.toNat : Int) - (n : Int))

/-! ### The bus decoder (20_memory.md R51 to R53) -/

/-- The first address above a slot's range, exact: 0x10000 for a device that ends at the top (R51). -/
def Slot.upper (sl : Slot) : Nat := sl.base.toNat + Config.pageBytes * sl.pages.toNat

/-- The range comparator: the half-open range of the slot holds the address (R51). -/
def Slot.hit (sl : Slot) (addr : Half) : Bool :=
  decide (sl.base.toNat ≤ addr.toNat) && decide (addr.toNat < sl.upper)

/-- The slot that owns an address, by a scan of the table (R52; log 16). -/
def State.lookup (s : State) (addr : Half) : Option Slot := s.slots.find? fun sl => sl.hit addr

/-- The local-address translator (R53). -/
def Slot.local (sl : Slot) (addr : Half) : Half := addr - sl.base

/-- The capability probe of the multiplexer; a device id outside the pool has no capability (R46, R52; log 11). -/
def State.behaviourOf (s : State) (dev : Byte) : Option Behaviour :=
  s.pool[deviceId dev]?.bind fun d => d.cap.behaviour?

/-- Where the bus sends an access. -/
structure Target where
  dev       : Byte
  behaviour : Behaviour
  loc       : Half
deriving DecidableEq, Repr

/-- Lookup, probe and translation, common to BUS_READ and BUS_WRITE (40_bus.md R81, R82). -/
def State.route (s : State) (addr : Half) : Except Response Target :=
  match s.lookup addr with
  | none => .error .unmapped
  | some sl =>
    match s.behaviourOf sl.dev with
    | none => .error .notAddressable
    | some b => .ok ⟨sl.dev, b, sl.local addr⟩

/-- `devstate[d]`. -/
def State.deviceState (s : State) (dev : Byte) : DevState := s.devstate.getD (deviceId dev) .none

/-- `devstate[d] <- st`. -/
def State.setDeviceState (s : State) (dev : Byte) (st : DevState) : State :=
  { s with devstate := s.devstate.set (deviceId dev) st }

/-- The answer to a completed device read: the byte, or the device's error, its fatality unchanged (40_bus.md R81, R87). -/
def State.answerRead (s : State) : ReadReply → State
  | .byte v => s.respond (.ok (zext16 v))
  | .error e => s.raise (.deviceError e)

/-- The answer to a completed device write (40_bus.md R82, R87). -/
def State.answerWrite (s : State) : WriteReply → State
  | .done => s.respond (.ok noValue)
  | .error e => s.raise (.deviceError e)

/-- MemRead(addr, 1): one device read, its next state kept whatever it answers (40_bus.md R81; 20_memory.md R45). -/
def State.busRead (s : State) (addr : Half) : State :=
  match s.route addr with
  | .error r => s.raise r
  | .ok t =>
    let (reply, st) := devRead t.behaviour (s.deviceState t.dev) t.loc
    (s.setDeviceState t.dev st).answerRead reply

/-- MemWrite(addr, 1, data): one device write (40_bus.md R82). -/
def State.busWrite (s : State) (addr : Half) (data : Byte) : State :=
  match s.route addr with
  | .error r => s.raise r
  | .ok t =>
    let (reply, st) := devWrite t.behaviour (s.deviceState t.dev) t.loc data
    (s.setDeviceState t.dev st).answerWrite reply

/-- What a read of a global address would be answered, with no effect: the model's view of one byte of the space.
`none` where no device answers. -/
def State.peek (s : State) (addr : Half) : Option ReadReply :=
  match s.route addr with
  | .error _ => none
  | .ok t => some (devRead t.behaviour (s.deviceState t.dev) t.loc).1

/-! ### The allocator (40_bus.md R80) -/

/-- A device instance is registered when some slot holds it (10_state.md R25). -/
def State.isAttached (s : State) (dev : Byte) : Bool := s.slots.any fun sl => decide (sl.dev = dev)

/-- The next free page boundary, `256 * next_page` (R80, log 14). -/
def State.nextBase (s : State) : Half := BitVec.ofNat 16 (Config.pageBytes * s.nextPage.toNat)

/-- The checks of BUS_ATTACH in the order of R80: the page count to allocate, or the first error that applies. -/
def State.attachCheck (s : State) (dev : Byte) : Except Response Byte :=
  match s.pool[deviceId dev]? with
  | none => .error .illegal
  | some d =>
    match d.cap.sizePages? with
    | none => .error .notSized
    | some sz =>
      if sz = 0 then .error .allocZeroPages
      else if s.isAttached dev then .error .allocAlreadyAttached
      else if s.nextPage.toNat + sz.toNat > Config.totalPages then .error .allocExhausted
      else .ok sz

/-- Append a slot at the next free page and count its pages (R80). -/
def State.appendSlot (s : State) (dev sz : Byte) : State :=
  { s with slots := s.slots ++ [⟨s.nextBase, sz, dev⟩]
           nextPage := BitVec.ofNat 9 (s.nextPage.toNat + sz.toNat) }

/-- BUS_ATTACH on a block that is not halted (R80). -/
def State.busAttach (s : State) (dev : Byte) : State :=
  match s.attachCheck dev with
  | .error r => s.raise r
  | .ok sz => (s.appendSlot dev sz).respond (.ok s.nextBase)

end Sys2Proof.Machine
end

