-- ==== Sys2Proof/Machine/Access.lean ====
section
/-! DEFINITION. The register get and set commands (41_register_access.md R90 to R101). -/

namespace Sys2Proof.Machine

/-- GET_PC (R90). -/
def execGetPc (s : State) : Host.Outcome State Fault Refusal := gated s fun s => s.respond (.ok s.pc)

/-- GET_SP (R91). -/
def execGetSp (s : State) : Host.Outcome State Fault Refusal := gated s fun s => s.respond (.ok (zext16 s.sp))

/-- GET_A (R92). -/
def execGetA (s : State) : Host.Outcome State Fault Refusal := gated s fun s => s.respond (.ok (zext16 s.a))

/-- GET_X (R93). -/
def execGetX (s : State) : Host.Outcome State Fault Refusal := gated s fun s => s.respond (.ok (zext16 s.x))

/-- GET_Y (R94). -/
def execGetY (s : State) : Host.Outcome State Fault Refusal := gated s fun s => s.respond (.ok (zext16 s.y))

/-- GET_P (R95). -/
def execGetP (s : State) : Host.Outcome State Fault Refusal := gated s fun s => s.respond (.ok (zext16 s.p))

/-- SET_PC (R96). -/
def execSetPc (v16 : Half) (s : State) : Host.Outcome State Fault Refusal :=
  gated s fun s => (s.setPc v16).respond (.ok noValue)

/-- SET_SP (R97). -/
def execSetSp (v8 : Byte) (s : State) : Host.Outcome State Fault Refusal :=
  gated s fun s => (s.setSp v8).respond (.ok noValue)

/-- SET_A (R98). -/
def execSetA (v8 : Byte) (s : State) : Host.Outcome State Fault Refusal :=
  gated s fun s => (s.setA v8).respond (.ok noValue)

/-- SET_X (R99). -/
def execSetX (v8 : Byte) (s : State) : Host.Outcome State Fault Refusal :=
  gated s fun s => (s.setX v8).respond (.ok noValue)

/-- SET_Y (R100). -/
def execSetY (v8 : Byte) (s : State) : Host.Outcome State Fault Refusal :=
  gated s fun s => (s.setY v8).respond (.ok noValue)

/-- SET_P (R101). -/
def execSetP (v8 : Byte) (s : State) : Host.Outcome State Fault Refusal :=
  gated s fun s => (s.setP v8).respond (.ok noValue)

end Sys2Proof.Machine
end

