-- ==== Sys2Proof/Machine/Bus.lean ====
section
/-! DEFINITION. The bus commands (40_bus.md R80 to R82). -/

namespace Sys2Proof.Machine

/-- BUS_READ (R81). -/
def execBusRead (addr : Half) (s : State) : Host.Outcome State Fault Refusal :=
  gated s fun s => s.busRead addr

/-- BUS_WRITE (R82). -/
def execBusWrite (addr : Half) (data : Byte) (s : State) : Host.Outcome State Fault Refusal :=
  gated s fun s => s.busWrite addr data

/-- BUS_ATTACH (R80). -/
def execBusAttach (dev : Byte) (s : State) : Host.Outcome State Fault Refusal :=
  gated s fun s => s.busAttach dev

end Sys2Proof.Machine
end

