-- ==== Sys2Proof/Machine/Counters.lean ====
section
/-! DEFINITION. The counter commands (42_counters.md R110 to R113), over the one wrap helper of R114. -/

namespace Sys2Proof.Machine

/-- INC_PC (R110). -/
def execIncPc (n : Half) (s : State) : Host.Outcome State Fault Refusal :=
  gated s fun s => (s.setPc (wrapAdd 16 s.pc (pcCount n))).respond (.ok noValue)

/-- DEC_PC (R111). -/
def execDecPc (n : Half) (s : State) : Host.Outcome State Fault Refusal :=
  gated s fun s => (s.setPc (wrapSub 16 s.pc (pcCount n))).respond (.ok noValue)

/-- INC_SP (R112). -/
def execIncSp (n : Half) (s : State) : Host.Outcome State Fault Refusal :=
  gated s fun s => (s.setSp (wrapAdd 8 s.sp (spCount n))).respond (.ok noValue)

/-- DEC_SP (R113). -/
def execDecSp (n : Half) (s : State) : Host.Outcome State Fault Refusal :=
  gated s fun s => (s.setSp (wrapSub 8 s.sp (spCount n))).respond (.ok noValue)

end Sys2Proof.Machine
end

