-- ==== Sys2Proof/Machine/FlagCommands.lean ====
section
/-! DEFINITION. The flag commands (43_flags.md R120 to R122). -/

namespace Sys2Proof.Machine

/-- GET_FLAG (R120). -/
def execGetFlag (f : Flag) (s : State) : Host.Outcome State Fault Refusal :=
  gated s fun s => s.respond (.ok (zext16Bit (flagGet s.p f)))

/-- SET_FLAG (R121). -/
def execSetFlag (f : Flag) (value : Bool) (s : State) : Host.Outcome State Fault Refusal :=
  gated s fun s => (s.setP (flagSet s.p f value)).respond (.ok noValue)

/-- TOGGLE_FLAG (R122). -/
def execToggleFlag (f : Flag) (s : State) : Host.Outcome State Fault Refusal :=
  gated s fun s => (s.setP (flagToggle s.p f)).respond (.ok noValue)

end Sys2Proof.Machine
end

