-- ==== Sys2Proof/Machine/Dispatch.lean ====
section
/-! DEFINITION. One arm per command, each a direct call of its meaning. -/

namespace Sys2Proof.Machine

/-- What a decoded command does (30_encoding.md R63). -/
def exec (i : Instr) (s : State) : Host.Outcome State Fault Refusal :=
  match i with
  | .getPc => Sys2Proof.Machine.execGetPc s
  | .getSp => Sys2Proof.Machine.execGetSp s
  | .getA => Sys2Proof.Machine.execGetA s
  | .getX => Sys2Proof.Machine.execGetX s
  | .getY => Sys2Proof.Machine.execGetY s
  | .getP => Sys2Proof.Machine.execGetP s
  | .setPc v => Sys2Proof.Machine.execSetPc v s
  | .setSp v => Sys2Proof.Machine.execSetSp v s
  | .setA v => Sys2Proof.Machine.execSetA v s
  | .setX v => Sys2Proof.Machine.execSetX v s
  | .setY v => Sys2Proof.Machine.execSetY v s
  | .setP v => Sys2Proof.Machine.execSetP v s
  | .incPc n => Sys2Proof.Machine.execIncPc n s
  | .decPc n => Sys2Proof.Machine.execDecPc n s
  | .incSp n => Sys2Proof.Machine.execIncSp n s
  | .decSp n => Sys2Proof.Machine.execDecSp n s
  | .getFlag f => Sys2Proof.Machine.execGetFlag f s
  | .setFlag f v => Sys2Proof.Machine.execSetFlag f v s
  | .toggleFlag f => Sys2Proof.Machine.execToggleFlag f s
  | .busRead addr => Sys2Proof.Machine.execBusRead addr s
  | .busWrite addr data => Sys2Proof.Machine.execBusWrite addr data s
  | .busAttach dev => Sys2Proof.Machine.execBusAttach dev s

end Sys2Proof.Machine
end

