-- ==== Sys2Proof/Machine/Step.lean ====
section
/-! DEFINITION. One step of the block: one command of the host, from taking its word to its response. -/

namespace Sys2Proof.Machine

/-- Take the next command word, then: HALTED before everything else, ILLEGAL before every command's own outcome
(60_exceptions.md R143), else perform the decoded command (00_scope.md R5). With no command presented there is no
step (log 1). -/
def step (s : State) : Host.Outcome State Fault Refusal :=
  match s.takeCommand with
  | none => .fault .noCommand
  | some (c, s) =>
    if s.halted then .next (s.raise .halted)
    else
      match decode s.pool.length c with
      | .error _ => .next (s.raise .illegal)
      | .ok i => exec i s

/-- The state with one more command word presented, ahead of those waiting: what the host does to have it performed
next (log 1). -/
def State.withFetchWord (s : State) (nbits w : Nat) : State :=
  { s with commands := BitVec.ofNat 32 (w % 2 ^ nbits) :: s.commands }

end Sys2Proof.Machine
end

