-- ==== Sys2Proof/Safety.lean ====
section
/-! DEFINITION. The terms claims use: what a safe state is (10_state.md R23, R26), what part of the state a command
may touch (R18, R19, R28), and how commands follow one another (20_memory.md R58). -/

namespace Sys2Proof

/-! ### Registers and who may touch them -/

/-- The six registers of the register file (10_state.md R11 to R16, R29). -/
inductive Reg where
  | pc
  | sp
  | a
  | x
  | y
  | p
deriving DecidableEq, Repr

/-- The width of a register. -/
def Reg.width : Reg → Nat
  | .pc => 16
  | .sp | .a | .x | .y | .p => 8

/-- The command that reads a register (10_state.md R28). -/
def Reg.getCommand : Reg → Instr
  | .pc => .getPc
  | .sp => .getSp
  | .a => .getA
  | .x => .getX
  | .y => .getY
  | .p => .getP

/-- The command that sets a register to a value of its width (10_state.md R28). -/
def Reg.setCommand (r : Reg) (v : Nat) : Instr :=
  match r with
  | .pc => .setPc (BitVec.ofNat 16 v)
  | .sp => .setSp (BitVec.ofNat 8 v)
  | .a => .setA (BitVec.ofNat 8 v)
  | .x => .setX (BitVec.ofNat 8 v)
  | .y => .setY (BitVec.ofNat 8 v)
  | .p => .setP (BitVec.ofNat 8 v)

/-- The writers of each register (10_state.md R11 to R16, R28). -/
def Instr.mayWrite : Instr → Reg → Bool
  | .setPc _, .pc | .incPc _, .pc | .decPc _, .pc => true
  | .setSp _, .sp | .incSp _, .sp | .decSp _, .sp => true
  | .setA _, .a | .setX _, .x | .setY _, .y => true
  | .setP _, .p | .setFlag _ _, .p | .toggleFlag _, .p => true
  | _, _ => false

/-- The bus commands (30_encoding.md R63); all others are register commands. -/
def Instr.isBus : Instr → Bool
  | .busRead _ | .busWrite _ _ | .busAttach _ => true
  | _ => false

/-- The commands that name the status register or one of its flags (43_flags.md R125). -/
def Instr.namesP : Instr → Bool
  | .getP | .setP _ | .getFlag _ | .setFlag _ _ | .toggleFlag _ => true
  | _ => false

end Sys2Proof

namespace Sys2Proof.Machine

/-! ### Safe states -/

/-- The pages a list of slots owns together. -/
def pageSum (slots : List Slot) : Nat := (slots.map fun sl => sl.pages.toNat).sum

/-- The invariants (I1) to (I9) of the bus mapping (10_state.md R23). -/
structure BusInv (s : State) : Prop where
  /-- (I1), with 255 the most a u8 holds. -/
  pages_pos : ∀ (k : Nat) (sl : Slot), s.slots[k]? = some sl → 1 ≤ sl.pages.toNat ∧ sl.pages.toNat ≤ 255
  /-- (I2) -/
  first_base : ∀ sl : Slot, s.slots[0]? = some sl → sl.base = 0x0000#16
  /-- (I3), exact arithmetic. -/
  contiguous : ∀ (k : Nat) (sl next : Slot), s.slots[k]? = some sl → s.slots[k + 1]? = some next →
    next.base.toNat = sl.base.toNat + 256 * sl.pages.toNat
  /-- (I4), exact arithmetic. -/
  below_top : ∀ (k : Nat) (sl : Slot), s.slots[k]? = some sl → sl.base.toNat + 256 * sl.pages.toNat ≤ 0x10000
  /-- (I5) -/
  page_aligned : ∀ (k : Nat) (sl : Slot), s.slots[k]? = some sl → sl.base.extractLsb' 0 8 = 0x00#8
  /-- (I6) -/
  once_each : ∀ (j k : Nat) (sl sl' : Slot), s.slots[j]? = some sl → s.slots[k]? = some sl' → j ≠ k → sl.dev ≠ sl'.dev
  /-- (I7) -/
  next_page : s.nextPage.toNat = pageSum s.slots ∧ s.nextPage.toNat ≤ 256
  /-- (I8) -/
  base_sum : ∀ (k : Nat) (sl : Slot), s.slots[k]? = some sl → sl.base.toNat = 256 * pageSum (s.slots.take k)
  /-- (I9) -/
  sized : ∀ (k : Nat) (sl : Slot), s.slots[k]? = some sl →
    ∃ d : Descriptor, s.pool[sl.dev.toNat]? = some d ∧ d.cap.sizePages? = some sl.pages

/-- Every device of a pool of at most 256 has exactly one state, of its own kind, a storing device's bytes in
canonical form (20_memory.md R45; 10_state.md R26). -/
structure DeviceInv (s : State) : Prop where
  pool_size : s.pool.length ≤ 256
  one_state_each : s.devstate.length = s.pool.length
  own_kind : ∀ (d : Nat) (desc : Descriptor) (st : DevState), s.pool[d]? = some desc → s.devstate[d]? = some st → desc.accepts st = true

/-! ### Parts of the state -/

/-- The value a register holds, as an unsigned number. -/
def State.reg (s : State) : Reg → Nat
  | .pc => s.pc.toNat
  | .sp => s.sp.toNat
  | .a => s.a.toNat
  | .x => s.x.toNat
  | .y => s.y.toNat
  | .p => s.p.toNat

/-- The bus part of the state with its configuration (10_state.md R19, R22 to R26). -/
def State.busPart (s : State) : List Slot × BitVec 9 × List DevState × List Descriptor :=
  (s.slots, s.nextPage, s.devstate, s.pool)

/-- The register file (10_state.md R19). -/
def State.regPart (s : State) : Half × Byte × Byte × Byte × Byte × Byte := (s.pc, s.sp, s.a, s.x, s.y, s.p)

/-- Two states whose registers, bus and halt latch agree: only the command port may differ. -/
def SameBlock (s t : State) : Prop := t.regPart = s.regPart ∧ t.busPart = s.busPart ∧ t.halted = s.halted

/-- The state with another register file. -/
def State.withRegs (s : State) (r : Half × Byte × Byte × Byte × Byte × Byte) : State :=
  { s with pc := r.1, sp := r.2.1, a := r.2.2.1, x := r.2.2.2.1, y := r.2.2.2.2.1, p := r.2.2.2.2.2 }

/-! ### Commands in sequence -/

/-- A command completes with an effect: on every block that is not halted it answers exactly the state `effect`
gives, and on every halted one it answers HALTED and changes nothing (60_exceptions.md R141). -/
def Completes (i : Instr) (effect : State → State) : Prop :=
  ∀ s : State,
    (s.halted = false → exec i s = .next (effect s))
    ∧ (s.halted = true → exec i s = .next { s with responses := .halted :: s.responses })

/-- Decoded commands one after the other (20_memory.md R58). -/
def execAll : List Instr → State → Host.Outcome State Fault Refusal
  | [], s => .next s
  | i :: rest, s =>
    match exec i s with
    | .next t => execAll rest t
    | .fault r => .fault r
    | .refused r => .refused r

/-- The eight flags, in the order of their indices (10_state.md R16). -/
def flagList : List Flag :=
  [.carry, .zero, .interruptDisable, .decimalMode, .breakCommand, .unused, .overflow, .negative]

/-- A command that writes the one flag it names (43_flags.md R121, R122). -/
def WritesFlag (i : Instr) (f : Flag) : Prop := (∃ v, i = .setFlag f v) ∨ i = .toggleFlag f

/-- A response that carries no success. -/
def Response.isError (r : Response) : Prop := ∀ d, r ≠ .ok d

/-- The words that spell one command, over every pool (30_encoding.md R61, R63). -/
def SpelledBy (i : Instr) (c : Word) : Prop :=
  ∀ (ndev : Nat) (c' : Word), decode ndev c' = .ok i ↔ c' = c

end Sys2Proof.Machine
end

