-- ==== Sys2Proof/Certificates/Slice0/Obligations.lean ====
section
/-! DEFINITION. The statements for the provers, most of them the spec's numbered rules. -/

open Sys2Proof Sys2Proof.Machine

/-! ### Commands and their results -/

/-- 41_register_access.md R90 to R95: each get is spelled by one word, answers the register, zero extended, and
changes nothing else. -/
def Obligations.GetCommandsAnswerTheRegister : Prop :=
  (SpelledBy .getPc 0x10000000#32
    ∧ Completes .getPc fun s => { s with responses := .ok s.pc :: s.responses })
  ∧ (SpelledBy .getSp 0x11000000#32
    ∧ Completes .getSp fun s => { s with responses := .ok (s.sp.setWidth 16) :: s.responses })
  ∧ (SpelledBy .getA 0x12000000#32
    ∧ Completes .getA fun s => { s with responses := .ok (s.a.setWidth 16) :: s.responses })
  ∧ (SpelledBy .getX 0x13000000#32
    ∧ Completes .getX fun s => { s with responses := .ok (s.x.setWidth 16) :: s.responses })
  ∧ (SpelledBy .getY 0x14000000#32
    ∧ Completes .getY fun s => { s with responses := .ok (s.y.setWidth 16) :: s.responses })
  ∧ (SpelledBy .getP 0x15000000#32
    ∧ Completes .getP fun s => { s with responses := .ok (s.p.setWidth 16) :: s.responses })

/-- 41_register_access.md R96 to R101: each set is spelled by one word per operand, stores the operand whatever it
is, and changes nothing else. -/
def Obligations.SetCommandsWriteOneRegister : Prop :=
  (∀ v : Half, SpelledBy (.setPc v) (0x20#8 ++ v ++ 0x00#8)
    ∧ Completes (.setPc v) fun s => { s with pc := v, responses := .ok 0x0000#16 :: s.responses })
  ∧ (∀ v : Byte, SpelledBy (.setSp v) (0x21#8 ++ 0x0000#16 ++ v)
    ∧ Completes (.setSp v) fun s => { s with sp := v, responses := .ok 0x0000#16 :: s.responses })
  ∧ (∀ v : Byte, SpelledBy (.setA v) (0x22#8 ++ 0x0000#16 ++ v)
    ∧ Completes (.setA v) fun s => { s with a := v, responses := .ok 0x0000#16 :: s.responses })
  ∧ (∀ v : Byte, SpelledBy (.setX v) (0x23#8 ++ 0x0000#16 ++ v)
    ∧ Completes (.setX v) fun s => { s with x := v, responses := .ok 0x0000#16 :: s.responses })
  ∧ (∀ v : Byte, SpelledBy (.setY v) (0x24#8 ++ 0x0000#16 ++ v)
    ∧ Completes (.setY v) fun s => { s with y := v, responses := .ok 0x0000#16 :: s.responses })
  ∧ (∀ v : Byte, SpelledBy (.setP v) (0x25#8 ++ 0x0000#16 ++ v)
    ∧ Completes (.setP v) fun s => { s with p := v, responses := .ok 0x0000#16 :: s.responses })

/-- 42_counters.md R110 to R113: the counters add and subtract modulo 2^16 and 2^8, write no flag and never fail. -/
def Obligations.CounterCommandsWrap : Prop :=
  (∀ n : Half, SpelledBy (.incPc n) (0x30#8 ++ n ++ 0x00#8)
    ∧ Completes (.incPc n) fun s => { s with pc := s.pc + n, responses := .ok 0x0000#16 :: s.responses })
  ∧ (∀ n : Half, SpelledBy (.decPc n) (0x31#8 ++ n ++ 0x00#8)
    ∧ Completes (.decPc n) fun s => { s with pc := s.pc - n, responses := .ok 0x0000#16 :: s.responses })
  ∧ (∀ n : Half, SpelledBy (.incSp n) (0x32#8 ++ n ++ 0x00#8)
    ∧ Completes (.incSp n) fun s =>
        { s with sp := s.sp + n.setWidth 8, responses := .ok 0x0000#16 :: s.responses })
  ∧ (∀ n : Half, SpelledBy (.decSp n) (0x33#8 ++ n ++ 0x00#8)
    ∧ Completes (.decSp n) fun s =>
        { s with sp := s.sp - n.setWidth 8, responses := .ok 0x0000#16 :: s.responses })

/-- 43_flags.md R120 to R122: the flag commands read, write and invert bit i of `p` and touch nothing else. -/
def Obligations.FlagCommandsActOnOneBit : Prop :=
  (∀ f : Flag, SpelledBy (.getFlag f) (0x40#8 ++ 0x0000#16 ++ 0#5 ++ BitVec.ofNat 3 f.index)
    ∧ Completes (.getFlag f) fun s =>
        { s with responses := .ok (if s.p.getLsbD f.index then 0x0001#16 else 0x0000#16) :: s.responses })
  ∧ (∀ (f : Flag) (v : Bool),
      SpelledBy (.setFlag f v) (0x41#8 ++ 0x0000#16 ++ 0#4 ++ BitVec.ofBool v ++ BitVec.ofNat 3 f.index)
      ∧ Completes (.setFlag f v) fun s =>
          { s with p := if v then s.p ||| (1#8 <<< f.index) else s.p &&& ~~~(1#8 <<< f.index)
                   responses := .ok 0x0000#16 :: s.responses })
  ∧ (∀ f : Flag, SpelledBy (.toggleFlag f) (0x42#8 ++ 0x0000#16 ++ 0#5 ++ BitVec.ofNat 3 f.index)
    ∧ Completes (.toggleFlag f) fun s =>
        { s with p := s.p ^^^ (1#8 <<< f.index), responses := .ok 0x0000#16 :: s.responses })

/-- 40_bus.md R80: BUS_ATTACH, with its checks in order; the last clause is the attach that succeeds. -/
def Obligations.AttachFollowsItsChecks : Prop :=
  (∀ (ndev : Nat) (c : Word) (dev : Byte),
    decode ndev c = .ok (.busAttach dev) ↔ c = 0x52#8 ++ 0x0000#16 ++ dev ∧ dev.toNat < ndev)
  ∧ (∀ (s : State) (dev : Byte), s.halted = true →
      exec (.busAttach dev) s = .next { s with responses := .halted :: s.responses })
  ∧ ∀ (s : State) (dev : Byte), s.halted = false →
    (s.pool.length ≤ dev.toNat →
      exec (.busAttach dev) s = .next { s with responses := .illegal :: s.responses })
    ∧ ∀ d : Descriptor, s.pool[dev.toNat]? = some d →
      (d.cap.sizePages? = none →
        exec (.busAttach dev) s = .next { s with responses := .notSized :: s.responses })
      ∧ ∀ sz : Byte, d.cap.sizePages? = some sz →
        (sz = 0x00#8 →
          exec (.busAttach dev) s = .next { s with responses := .allocZeroPages :: s.responses })
        ∧ (sz ≠ 0x00#8 → (∃ sl ∈ s.slots, sl.dev = dev) →
          exec (.busAttach dev) s = .next { s with responses := .allocAlreadyAttached :: s.responses })
        ∧ (sz ≠ 0x00#8 → (∀ sl ∈ s.slots, sl.dev ≠ dev) → s.nextPage.toNat + sz.toNat > 256 →
          exec (.busAttach dev) s = .next { s with responses := .allocExhausted :: s.responses })
        ∧ (sz ≠ 0x00#8 → (∀ sl ∈ s.slots, sl.dev ≠ dev) → s.nextPage.toNat + sz.toNat ≤ 256 →
          exec (.busAttach dev) s = .next
            { s with slots := s.slots ++ [⟨BitVec.ofNat 16 (256 * s.nextPage.toNat), sz, dev⟩]
                     nextPage := BitVec.ofNat 9 (s.nextPage.toNat + sz.toNat)
                     responses := .ok (BitVec.ofNat 16 (256 * s.nextPage.toNat)) :: s.responses })

/-- 40_bus.md R81: BUS_READ; where a device owns the address, the device answers, with a byte or with an error. -/
def Obligations.ReadForwardsToTheOwner : Prop :=
  (∀ addr : Half, SpelledBy (.busRead addr) (0x50#8 ++ addr ++ 0x00#8))
  ∧ (∀ (s : State) (addr : Half), s.halted = true →
      exec (.busRead addr) s = .next { s with responses := .halted :: s.responses })
  ∧ ∀ (s : State) (addr : Half), s.halted = false →
    (s.lookup addr = none →
      exec (.busRead addr) s = .next { s with halted := true, responses := .unmapped :: s.responses })
    ∧ ∀ sl : Slot, s.lookup addr = some sl →
      (s.behaviourOf sl.dev = none →
        exec (.busRead addr) s = .next { s with halted := true, responses := .notAddressable :: s.responses })
      ∧ ∀ b : Behaviour, s.behaviourOf sl.dev = some b →
        exec (.busRead addr) s = .next
          (match devRead b (s.deviceState sl.dev) (addr - sl.base) with
          | (.byte v, st) =>
            { s with devstate := s.devstate.set sl.dev.toNat st
                     responses := .ok (v.setWidth 16) :: s.responses }
          | (.error e, st) =>
            { s with devstate := s.devstate.set sl.dev.toNat st
                     halted := e.fatal
                     responses := .deviceError e :: s.responses })

/-- 40_bus.md R82: BUS_WRITE, the same lookup and translation, forwarded to the device's write. -/
def Obligations.WriteForwardsToTheOwner : Prop :=
  (∀ (addr : Half) (data : Byte), SpelledBy (.busWrite addr data) (0x51#8 ++ addr ++ data))
  ∧ (∀ (s : State) (addr : Half) (data : Byte), s.halted = true →
      exec (.busWrite addr data) s = .next { s with responses := .halted :: s.responses })
  ∧ ∀ (s : State) (addr : Half) (data : Byte), s.halted = false →
    (s.lookup addr = none →
      exec (.busWrite addr data) s = .next { s with halted := true, responses := .unmapped :: s.responses })
    ∧ ∀ sl : Slot, s.lookup addr = some sl →
      (s.behaviourOf sl.dev = none →
        exec (.busWrite addr data) s = .next
          { s with halted := true, responses := .notAddressable :: s.responses })
      ∧ ∀ b : Behaviour, s.behaviourOf sl.dev = some b →
        exec (.busWrite addr data) s = .next
          (match devWrite b (s.deviceState sl.dev) (addr - sl.base) data with
          | (.done, st) =>
            { s with devstate := s.devstate.set sl.dev.toNat st
                     responses := .ok 0x0000#16 :: s.responses }
          | (.error e, st) =>
            { s with devstate := s.devstate.set sl.dev.toNat st
                     halted := e.fatal
                     responses := .deviceError e :: s.responses })

/-! ### Laws of the registers, the counters and the flags -/

/-- 41_register_access.md R102: set then get, nothing else touched, the last set wins, different sets commute. -/
def Obligations.SetThenGetAnswersTheValue : Prop :=
  ∀ s : State, s.halted = false →
    (∀ (r : Reg) (v : Nat), v < 2 ^ r.width →
      ∃ t, execAll [r.setCommand v, r.getCommand] s = .next t
        ∧ t.lastResponse = some (.ok (BitVec.ofNat 16 v)))
    ∧ (∀ (r : Reg) (v : Nat), v < 2 ^ r.width →
      ∃ t, exec (r.setCommand v) s = .next t ∧ t.reg r = v ∧ (∀ r', r' ≠ r → t.reg r' = s.reg r')
        ∧ t.busPart = s.busPart ∧ t.halted = s.halted)
    ∧ (∀ (r : Reg) (v v' : Nat), v < 2 ^ r.width → v' < 2 ^ r.width →
      ∃ t, execAll [r.setCommand v, r.setCommand v'] s = .next t ∧ t.reg r = v')
    ∧ (∀ (r r' : Reg) (v v' : Nat), r ≠ r' →
      ∃ t, execAll [r.setCommand v, r'.setCommand v'] s = .next t
        ∧ execAll [r'.setCommand v', r.setCommand v] s = .next t)

/-- 42_counters.md R114: the one helper is addition and subtraction modulo 2^N, and the counters are that helper. -/
def Obligations.CountersUseTheWrapHelper : Prop :=
  (∀ (N : Nat) (r : BitVec N) (n : Nat),
    (wrapAdd N r n).toNat = (r.toNat + n) % 2 ^ N
    ∧ ((wrapSub N r n).toNat : Int) = ((r.toNat : Int) - (n : Int)) % (2 ^ N : Int))
  ∧ ∀ n : Half,
    (Completes (.incPc n) fun s =>
      { s with pc := wrapAdd 16 s.pc n.toNat, responses := .ok 0x0000#16 :: s.responses })
    ∧ (Completes (.decPc n) fun s =>
      { s with pc := wrapSub 16 s.pc n.toNat, responses := .ok 0x0000#16 :: s.responses })
    ∧ (Completes (.incSp n) fun s =>
      { s with sp := wrapAdd 8 s.sp n.toNat, responses := .ok 0x0000#16 :: s.responses })
    ∧ (Completes (.decSp n) fun s =>
      { s with sp := wrapSub 8 s.sp n.toNat, responses := .ok 0x0000#16 :: s.responses })

/-- 42_counters.md R115: the laws of the wrap helper, for counts of every magnitude. -/
def Obligations.WrapHelperLaws : Prop :=
  ∀ (N : Nat) (r : BitVec N) (m n : Nat),
    (wrapAdd N r 0 = r ∧ wrapSub N r 0 = r)
    ∧ (wrapAdd N r n = wrapAdd N r (n % 2 ^ N) ∧ wrapSub N r n = wrapSub N r (n % 2 ^ N))
    ∧ (wrapSub N (wrapAdd N r n) n = r ∧ wrapAdd N (wrapSub N r n) n = r)
    ∧ wrapAdd N (wrapAdd N r m) n = wrapAdd N r (m + n)
    ∧ wrapSub N r n = wrapAdd N r (2 ^ N - n % 2 ^ N)
    ∧ ((wrapAdd N r n).toNat < 2 ^ N ∧ (wrapSub N r n).toNat < 2 ^ N)

/-- 43_flags.md R123: the flag laws (L1) to (L9). -/
def Obligations.FlagLawsHold : Prop :=
  ∀ s : State, s.halted = false →
    (∀ (i : Flag) (v : Bool), ∃ t, execAll [.setFlag i v, .getFlag i] s = .next t
      ∧ t.lastResponse = some (.ok (if v then 0x0001#16 else 0x0000#16)))
    ∧ (∀ (i j : Flag) (v : Bool), j ≠ i → ∃ t, exec (.setFlag i v) s = .next t
      ∧ t.p.getLsbD j.index = s.p.getLsbD j.index)
    ∧ (∀ i : Flag, ∃ t, execAll [.toggleFlag i, .toggleFlag i] s = .next t ∧ t.p = s.p)
    ∧ (∀ (q : Byte) (i : Flag), ∃ t, execAll [.setP q, .getFlag i] s = .next t
      ∧ t.lastResponse = some (.ok (if q.getLsbD i.index then 0x0001#16 else 0x0000#16)))
    ∧ (∀ i : Flag, exec (.toggleFlag i) s = exec (.setFlag i (!s.p.getLsbD i.index)) s)
    ∧ (∀ (i : Flag) (v v' : Bool), ∃ t u, execAll [.setFlag i v, .setFlag i v'] s = .next t
      ∧ exec (.setFlag i v') s = .next u ∧ SameBlock u t)
    ∧ (∀ (i j : Flag) (c c' : Instr), i ≠ j → WritesFlag c i → WritesFlag c' j →
      ∃ t, execAll [c, c'] s = .next t ∧ execAll [c', c] s = .next t)
    ∧ (∀ (i : Flag) (c : Instr), WritesFlag c i ∨ c = .getFlag i →
      ∃ (t u : State) (q : Byte), exec c s = .next t ∧ exec .getP t = .next u
        ∧ u.lastResponse = some (.ok (q.setWidth 16))
        ∧ ∀ k : Flag, ∃ w, exec (.getFlag k) t = .next w
          ∧ w.lastResponse = some (.ok (if q.getLsbD k.index then 0x0001#16 else 0x0000#16)))
    ∧ (∃ t, execAll (flagList.map fun i => .setFlag i true) s = .next t ∧ t.p = 0xFF#8)
    ∧ (∃ t, execAll (flagList.map fun i => .setFlag i false) s = .next t ∧ t.p = 0x00#8)

/-- 10_state.md R18, 43_flags.md R125: nothing sets a flag as a side effect and no flag influences a command that
does not name it; the commands that only read flags write none. -/
def Obligations.FlagsHaveNoSideEffects : Prop :=
  (∀ (i : Instr) (s : State) (q : Byte), i.namesP = false →
    ∃ t, exec i s = .next t ∧ t.p = s.p ∧ exec i { s with p := q } = .next { t with p := q })
  ∧ (∀ (i : Instr) (s : State) (f : Flag), i = .getP ∨ i = .getFlag f →
    ∃ t, exec i s = .next t ∧ t.p = s.p)
  ∧ ∀ pool : List Descriptor, (State.resetWith pool).p = 0x00#8

/-- 10_state.md section 2: a register changes only by the commands that R11 to R16 list as its writers. -/
def Obligations.OnlyWritersChangeARegister : Prop :=
  ∀ (i : Instr) (s t : State) (r : Reg), exec i s = .next t → i.mayWrite r = false → t.reg r = s.reg r

/-- 10_state.md R19: bus commands neither read nor write a register, register commands neither read nor write the
bus, and the two parts share only the halt latch. -/
def Obligations.RegisterFileAndBusAreIndependent : Prop :=
  (∀ (i : Instr) (s : State) (r : Half × Byte × Byte × Byte × Byte × Byte), i.isBus = true →
    ∃ t, exec i s = .next t ∧ t.regPart = s.regPart ∧ exec i (s.withRegs r) = .next (t.withRegs r))
  ∧ (∀ (i : Instr) (s : State), i.isBus = false →
    ∃ t, exec i s = .next t ∧ t.busPart = s.busPart ∧ t.halted = s.halted
      ∧ (∀ addr : Half, t.peek addr = s.peek addr)
      ∧ ∀ s' : State, s'.regPart = s.regPart → s'.halted = s.halted → s'.responses = s.responses →
        ∃ t', exec i s' = .next t' ∧ t'.regPart = t.regPart ∧ t'.responses = t.responses)

/-! ### The bus decoder -/

/-- 20_memory.md R51: the scan of the table finds exactly the slot whose half-open range, its upper bound computed
exactly, holds the address, and no other slot's range does. -/
def Obligations.LookupIsTheUniqueHit : Prop :=
  ∀ s : State, BusInv s →
    (∀ (k : Nat) (sl : Slot) (addr : Half), s.slots[k]? = some sl →
      (s.lookup addr = some sl ↔
        sl.base.toNat ≤ addr.toNat ∧ addr.toNat < sl.base.toNat + 256 * sl.pages.toNat))
    ∧ (∀ (j k : Nat) (sl sl' : Slot) (addr : Half), s.slots[j]? = some sl → s.slots[k]? = some sl' →
      s.lookup addr = some sl → s.lookup addr = some sl' → j = k)
    ∧ ∀ (addr : Half) (sl : Slot), s.lookup addr = some sl → ∃ k : Nat, s.slots[k]? = some sl

/-- 20_memory.md R53: the local address is the exact difference and lies inside the device's footprint. -/
def Obligations.LocalAddressIsInTheFootprint : Prop :=
  ∀ (s : State) (addr : Half) (sl : Slot), s.lookup addr = some sl →
    (sl.local addr).toNat = addr.toNat - sl.base.toNat
    ∧ sl.base.toNat ≤ addr.toNat
    ∧ (sl.local addr).toNat < 256 * sl.pages.toNat

/-- 20_memory.md R54: the decoder at page level. -/
def Obligations.PageLevelDecoderAgrees : Prop :=
  ∀ s : State, BusInv s → ∀ addr : Half,
    (∀ (k : Nat) (sl : Slot), s.slots[k]? = some sl →
      (s.lookup addr = some sl ↔
        (sl.base.extractLsb' 8 8).toNat ≤ (addr.extractLsb' 8 8).toNat
        ∧ (addr.extractLsb' 8 8).toNat < (sl.base.extractLsb' 8 8).toNat + sl.pages.toNat))
    ∧ (∀ sl : Slot, s.lookup addr = some sl →
      sl.local addr = (addr.extractLsb' 8 8 - sl.base.extractLsb' 8 8) ++ addr.extractLsb' 0 8)
    ∧ (s.lookup addr = none ↔ s.nextPage.toNat ≤ (addr.extractLsb' 8 8).toNat)

/-- 40_bus.md R84: an access inside a slot's range is one operation of that slot's device at the local address, and
no other device's state changes. -/
def Obligations.AccessIsOneOperationOfTheOwner : Prop :=
  ∀ (s : State) (k : Nat) (sl : Slot) (addr : Half), BusInv s → DeviceInv s → s.halted = false →
    s.slots[k]? = some sl → sl.base.toNat ≤ addr.toNat →
    addr.toNat < sl.base.toNat + 256 * sl.pages.toNat →
    ∃ (b : Behaviour) (st : DevState),
      s.behaviourOf sl.dev = some b ∧ s.devstate[sl.dev.toNat]? = some st
      ∧ (∃ t, exec (.busRead addr) s = .next t
        ∧ t.devstate[sl.dev.toNat]? = some (devRead b st (addr - sl.base)).2
        ∧ (∀ d, d ≠ sl.dev.toNat → t.devstate[d]? = s.devstate[d]?)
        ∧ t.lastResponse = some (match (devRead b st (addr - sl.base)).1 with
            | .byte v => .ok (v.setWidth 16)
            | .error e => .deviceError e))
      ∧ ∀ data : Byte, ∃ t, exec (.busWrite addr data) s = .next t
        ∧ t.devstate[sl.dev.toNat]? = some (devWrite b st (addr - sl.base) data).2
        ∧ (∀ d, d ≠ sl.dev.toNat → t.devstate[d]? = s.devstate[d]?)
        ∧ t.lastResponse = some (match (devWrite b st (addr - sl.base) data).1 with
            | .done => .ok 0x0000#16
            | .error e => .deviceError e)

/-- From 40_bus.md R84 and 10_state.md R23 (I6): an access leaves every byte of every other device as it was. -/
def Obligations.AccessLeavesOtherDevicesBytes : Prop :=
  ∀ (s t : State) (i : Instr) (addr other : Half), BusInv s →
    (i = .busRead addr ∨ ∃ data, i = .busWrite addr data) → exec i s = .next t →
    s.lookup other ≠ s.lookup addr → t.peek other = s.peek other

/-- 40_bus.md R85: the addresses at or above 256 * next_page are the unmapped ones, and an access to one touches
nothing, answers the fatal UNMAPPED and halts. -/
def Obligations.UnmappedAccessIsFatal : Prop :=
  ∀ (s : State) (addr : Half), BusInv s → s.halted = false →
    ((∀ sl ∈ s.slots, ¬(sl.base.toNat ≤ addr.toNat ∧ addr.toNat < sl.base.toNat + 256 * sl.pages.toNat)) ↔
      s.nextPage.toNat ≤ (addr.extractLsb' 8 8).toNat)
    ∧ (s.nextPage.toNat ≤ (addr.extractLsb' 8 8).toNat →
      Response.unmapped.fatal = true
      ∧ exec (.busRead addr) s = .next { s with halted := true, responses := .unmapped :: s.responses }
      ∧ ∀ data : Byte,
        exec (.busWrite addr data) s = .next { s with halted := true, responses := .unmapped :: s.responses })

/-- 60_exceptions.md R135: the multiplexer's probe has a defined failure, which a table built by BUS_ATTACH never
shows. -/
def Obligations.NotAddressableIsUnreachable : Prop :=
  (∀ (s : State) (addr : Half) (sl : Slot), s.halted = false → s.lookup addr = some sl →
    s.behaviourOf sl.dev = none →
    Response.notAddressable.fatal = true
    ∧ exec (.busRead addr) s = .next { s with halted := true, responses := .notAddressable :: s.responses }
    ∧ ∀ data : Byte,
      exec (.busWrite addr data) s = .next { s with halted := true, responses := .notAddressable :: s.responses })
  ∧ ∀ (s t : State) (i : Instr), BusInv s → exec i s = .next t → t.lastResponse ≠ some .notAddressable

/-- 40_bus.md R87: a device's error is forwarded with its own fatality and message, and every other fatal answer to
an access is the bus's own. -/
def Obligations.FatalityIsForwardedUnchanged : Prop :=
  (Response.unmapped.fatal = true ∧ Response.notAddressable.fatal = true)
  ∧ ∀ (s : State) (addr : Half), s.halted = false →
    (∀ tg : Target, s.route addr = .ok tg →
      ∃ t r, exec (.busRead addr) s = .next t ∧ t.lastResponse = some r ∧ t.halted = r.fatal
        ∧ (r.fatal, r.message) =
          match (devRead tg.behaviour (s.deviceState tg.dev) tg.loc).1 with
          | .byte _ => (false, "")
          | .error e => (e.fatal, e.message))
    ∧ (∀ (tg : Target) (data : Byte), s.route addr = .ok tg →
      ∃ t r, exec (.busWrite addr data) s = .next t ∧ t.lastResponse = some r ∧ t.halted = r.fatal
        ∧ (r.fatal, r.message) =
          match (devWrite tg.behaviour (s.deviceState tg.dev) tg.loc data).1 with
          | .done => (false, "")
          | .error e => (e.fatal, e.message))
    ∧ ∀ (i : Instr) (t : State) (r : Response), (i = .busRead addr ∨ ∃ data, i = .busWrite addr data) →
      exec i s = .next t → t.lastResponse = some r → r.fatal = true →
      r = .unmapped ∨ r = .notAddressable ∨ ∃ e : HardwareError, r = .deviceError e ∧ e.fatal = true

/-! ### The allocator -/

/-- 10_state.md R22: the mapping grows only at its end, by BUS_ATTACH, with the device's own page count copied, no
entry ever changes, and it has at most 256 entries. -/
def Obligations.MappingOnlyGrowsAtItsEnd : Prop :=
  (∀ (i : Instr) (s t : State), exec i s = .next t →
    t.slots = s.slots
    ∨ ∃ (dev sz : Byte) (d : Descriptor) (base : Half), i = .busAttach dev
      ∧ s.pool[dev.toNat]? = some d ∧ d.cap.sizePages? = some sz ∧ t.slots = s.slots ++ [⟨base, sz, dev⟩])
  ∧ ∀ s : State, BusInv s → s.slots.length ≤ 256

/-- 40_bus.md R83: after every run from reset, over every pool, the ranges are disjoint and tile the space in
attachment order, and an attach that fails leaves no trace. -/
def Obligations.AttachedRangesTileTheSpace : Prop :=
  (∀ (pool : List Descriptor) (commands : List Word) (n : Nat) (t : State),
    Host.Core.run Sys2Proof.core n { State.resetWith pool with commands := commands } = .next t →
    (∀ (k : Nat) (sl : Slot), t.slots[k]? = some sl → sl.base.toNat = 256 * pageSum (t.slots.take k))
    ∧ (∀ (k : Nat) (sl next : Slot), t.slots[k]? = some sl → t.slots[k + 1]? = some next →
      next.base.toNat = sl.base.toNat + 256 * sl.pages.toNat)
    ∧ ∀ (j k : Nat) (sl sl' : Slot), j < k → t.slots[j]? = some sl → t.slots[k]? = some sl' →
      sl.base.toNat + 256 * sl.pages.toNat ≤ sl'.base.toNat)
  ∧ ∀ (s t : State) (dev : Byte) (r : Response), exec (.busAttach dev) s = .next t →
    t.lastResponse = some r → r.isError → SameBlock s t

/-- 40_bus.md R86: an attach that does not fit changes nothing and answers an allocation error. -/
def Obligations.ExhaustedAttachChangesNothing : Prop :=
  ∀ (s : State) (dev : Byte) (d : Descriptor) (sz : Byte), s.halted = false →
    s.pool[dev.toNat]? = some d → d.cap.sizePages? = some sz → s.nextPage.toNat + sz.toNat > 256 →
    ∃ r, exec (.busAttach dev) s = .next { s with responses := r :: s.responses }
      ∧ (r = .allocZeroPages ∨ r = .allocAlreadyAttached ∨ r = .allocExhausted)

/-- From 40_bus.md R80, its corner cases: an attach that fails fails again after any further commands. -/
def Obligations.FailedAttachKeepsFailing : Prop :=
  ∀ (s t u v : State) (dev : Byte) (r r' : Response) (n : Nat),
    exec (.busAttach dev) s = .next t → t.lastResponse = some r → r.isError →
    Host.Core.run Sys2Proof.core n t = .next u →
    exec (.busAttach dev) u = .next v → v.lastResponse = some r' → r'.isError

/-- From 40_bus.md R80, its corner cases: no command changes the mapping of a mapped address, and no attach
changes a byte there. -/
def Obligations.MappedAddressStaysMapped : Prop :=
  (∀ (s t : State) (addr : Half) (sl : Slot), s.lookup addr = some sl → step s = .next t →
    t.lookup addr = some sl)
  ∧ ∀ (s t : State) (addr : Half) (dev : Byte), s.lookup addr ≠ none → exec (.busAttach dev) s = .next t →
    t.peek addr = s.peek addr

/-! ### Devices -/

/-- 20_memory.md R48: Discard. -/
def Obligations.DiscardReadsZeroAndAcceptsWrites : Prop :=
  ((deviceDiscard 1).cap = .sizedAddressable .discard 1 ∧ (deviceDiscard 1).init = .none)
  ∧ (∀ (st : DevState) (l : Half) (v : Byte),
    devRead .discard st l = (.byte 0x00#8, st) ∧ devWrite .discard st l v = (.done, st))
  ∧ ∀ (s : State) (addr : Half) (sl : Slot), s.halted = false → s.lookup addr = some sl →
    s.behaviourOf sl.dev = some .discard →
    exec (.busRead addr) s = .next { s with responses := .ok 0x0000#16 :: s.responses }
    ∧ ∀ data : Byte,
      exec (.busWrite addr data) s = .next { s with responses := .ok 0x0000#16 :: s.responses }
      ∧ ∃ t, execAll [.busWrite addr data, .busRead addr] s = .next t
        ∧ t.lastResponse = some (.ok 0x0000#16)

/-- 20_memory.md R47: Empty has no capability, cannot be attached, and no address is ever routed to it. -/
def Obligations.EmptyCannotBeAttached : Prop :=
  (deviceEmpty.cap.behaviour? = none ∧ deviceEmpty.cap.sizePages? = none ∧ deviceEmpty.init = .none)
  ∧ (∀ (s : State) (dev : Byte) (d : Descriptor), s.halted = false → s.pool[dev.toNat]? = some d →
    d.cap = .identityOnly →
    exec (.busAttach dev) s = .next { s with responses := .notSized :: s.responses })
  ∧ ∀ (s : State) (addr : Half) (sl : Slot) (d : Descriptor), BusInv s → s.lookup addr = some sl →
    s.pool[sl.dev.toNat]? = some d → d.cap ≠ .identityOnly

/-- From 10_state.md R25, R26 and 20_memory.md R45: a device's state changes only by an access the bus forwards to
it, and the pool never changes. -/
def Obligations.DeviceStateChangesOnlyThroughTheBus : Prop :=
  ∀ (s t : State) (i : Instr), exec i s = .next t →
    t.pool = s.pool ∧ t.devstate.length = s.devstate.length
    ∧ ∀ d : Nat, t.devstate[d]? ≠ s.devstate[d]? →
      ∃ (addr : Half) (sl : Slot), (i = .busRead addr ∨ ∃ data, i = .busWrite addr data)
        ∧ s.lookup addr = some sl ∧ sl.dev.toNat = d

/-- From 20_memory.md R58 (c) and the RAM fixture of 95_test_vectors.md section 2: a write to a storing device
changes the one byte written, and a read after it returns that byte. -/
def Obligations.RamWriteChangesOneByte : Prop :=
  ∀ (s : State) (addr : Half) (sl : Slot) (data : Byte), BusInv s → DeviceInv s → s.halted = false →
    s.lookup addr = some sl → s.behaviourOf sl.dev = some .ram →
    ∃ t, exec (.busWrite addr data) s = .next t
      ∧ t.peek addr = some (.byte data)
      ∧ (∀ other : Half, other ≠ addr → t.peek other = s.peek other)
      ∧ ∃ u, exec (.busRead addr) t = .next u ∧ u.lastResponse = some (.ok (data.setWidth 16))

/-! ### Errors, halting and reset -/

/-- 30_encoding.md R67: the status codes, the fatality and the halting of each outcome, and which commands raise it. -/
def Obligations.StatusCodesAndTheirCommands : Prop :=
  (∀ (d : Half) (e : HardwareError),
    [(Response.ok d).status, (Response.deviceError e).status, Response.unmapped.status,
      Response.notAddressable.status, Response.allocZeroPages.status, Response.allocAlreadyAttached.status,
      Response.allocExhausted.status, Response.notSized.status, Response.illegal.status,
      Response.halted.status] = [0, 1, 2, 3, 4, 5, 6, 7, 8, 9]
    ∧ [(Response.ok d).fatal, (Response.deviceError e).fatal, Response.unmapped.fatal,
      Response.notAddressable.fatal, Response.allocZeroPages.fatal, Response.allocAlreadyAttached.fatal,
      Response.allocExhausted.fatal, Response.notSized.fatal, Response.illegal.fatal,
      Response.halted.fatal] = [false, e.fatal, true, true, false, false, false, false, false, false])
  ∧ (∀ r : Response, r.status.toNat ≤ 9)
  ∧ ∀ (i : Instr) (s t : State) (r : Response), s.halted = false → exec i s = .next t →
    t.lastResponse = some r →
    (t.halted = r.fatal)
    ∧ (r = .unmapped ∨ r = .notAddressable ∨ (∃ e, r = .deviceError e) →
      (∃ addr, i = .busRead addr) ∨ ∃ addr data, i = .busWrite addr data)
    ∧ (r = .allocZeroPages ∨ r = .allocAlreadyAttached ∨ r = .allocExhausted ∨ r = .notSized →
      ∃ dev, i = .busAttach dev)
    ∧ (r = .illegal → ∃ dev, i = .busAttach dev ∧ s.pool.length ≤ dev.toNat)
    ∧ r ≠ .halted

/-- From 30_encoding.md R66: the fields of the packed response. -/
def Obligations.PackedResponseFields : Prop :=
  ∀ (n : Nat) (r : Response),
    (r.pack n).extractLsb' 28 4 = r.status
    ∧ (r.pack n).extractLsb' 25 3 = 0#3
    ∧ (r.pack n).getLsbD 24 = r.fatal
    ∧ (r.pack n).extractLsb' 16 8 = 0#8
    ∧ (∀ d, r = .ok d → (r.pack n).extractLsb' 0 16 = d ∧ r.message = "")
    ∧ (r.isError → r.data? = none)

/-- 60_exceptions.md R143: the priority of outcomes where several apply. -/
def Obligations.FirstOutcomeWins : Prop :=
  (∀ (s : State) (c : Word) (rest : List Word), s.commands = c :: rest → s.halted = true →
    ∃ t, step s = .next t ∧ t.lastResponse = some .halted)
  ∧ (∀ (s : State) (c : Word) (rest : List Word) (e : Reject), s.commands = c :: rest → s.halted = false →
    decode s.pool.length c = .error e → ∃ t, step s = .next t ∧ t.lastResponse = some .illegal)
  ∧ (∀ (s t : State) (dev : Byte) (d : Descriptor), s.halted = false → s.pool[dev.toNat]? = some d →
    exec (.busAttach dev) s = .next t →
    (d.cap.sizePages? = none → t.lastResponse = some .notSized)
    ∧ (d.cap.sizePages? = some 0x00#8 → t.lastResponse = some .allocZeroPages)
    ∧ ∀ sz : Byte, d.cap.sizePages? = some sz → sz ≠ 0x00#8 →
      ((∃ sl ∈ s.slots, sl.dev = dev) → t.lastResponse = some .allocAlreadyAttached)
      ∧ ((∀ sl ∈ s.slots, sl.dev ≠ dev) → s.nextPage.toNat + sz.toNat > 256 →
        t.lastResponse = some .allocExhausted)
      ∧ ((∀ sl ∈ s.slots, sl.dev ≠ dev) → s.nextPage.toNat + sz.toNat ≤ 256 →
        t.lastResponse = some (.ok (BitVec.ofNat 16 (256 * s.nextPage.toNat)))))
  ∧ (∀ (s t : State) (addr : Half), s.halted = false → exec (.busRead addr) s = .next t →
    (s.lookup addr = none → t.lastResponse = some .unmapped)
    ∧ ∀ sl : Slot, s.lookup addr = some sl →
      (s.behaviourOf sl.dev = none → t.lastResponse = some .notAddressable)
      ∧ ∀ b : Behaviour, s.behaviourOf sl.dev = some b →
        t.lastResponse = some (match (devRead b (s.deviceState sl.dev) (addr - sl.base)).1 with
          | .byte v => .ok (v.setWidth 16)
          | .error e => .deviceError e))
  ∧ ∀ (s t : State) (addr : Half) (data : Byte), s.halted = false → exec (.busWrite addr data) s = .next t →
    (s.lookup addr = none → t.lastResponse = some .unmapped)
    ∧ ∀ sl : Slot, s.lookup addr = some sl →
      (s.behaviourOf sl.dev = none → t.lastResponse = some .notAddressable)
      ∧ ∀ b : Behaviour, s.behaviourOf sl.dev = some b →
        t.lastResponse = some (match (devWrite b (s.deviceState sl.dev) (addr - sl.base) data).1 with
          | .done => .ok 0x0000#16
          | .error e => .deviceError e)

/-- 60_exceptions.md R141: the halt gate, for every command and for every word, legal or not. -/
def Obligations.HaltGateRefusesEveryCommand : Prop :=
  (∀ (i : Instr) (s : State), s.halted = true →
    exec i s = .next { s with responses := .halted :: s.responses })
  ∧ (∀ (s : State) (c : Word) (rest : List Word), s.halted = true → s.commands = c :: rest →
    step s = .next { s with commands := rest, responses := .halted :: s.responses })
  ∧ Response.halted.fatal = false ∧ Response.halted.data? = none

/-- From 60_exceptions.md R144 and 70_reset_and_hazards.md R163: a halted block's state never changes again, and
every further command is answered HALTED. -/
def Obligations.HaltedRunIsQuiescent : Prop :=
  ∀ (n : Nat) (s : State), s.halted = true → n ≤ s.commands.length →
    ∃ t, Host.Core.run Sys2Proof.core n s = .next t ∧ SameBlock s t
      ∧ t.commands = s.commands.drop n ∧ t.responses = List.replicate n .halted ++ s.responses

/-- 60_exceptions.md R139: the latch is set by exactly the commands that end in a fatal error, and once set it
stays (10_state.md R27). -/
def Obligations.FatalErrorSetsTheHaltLatch : Prop :=
  ∀ s t : State, step s = .next t →
    ∃ r, t.responses = r :: s.responses
      ∧ (t.halted = true ↔ s.halted = true ∨ r.fatal = true)
      ∧ (r.fatal = true ↔ r = .unmapped ∨ r = .notAddressable ∨ ∃ e, r = .deviceError e ∧ e.fatal = true)

/-- 60_exceptions.md R140: fatal-error entry saves nothing and changes nothing but the latch and, for a device's
error, that device's own state. -/
def Obligations.FatalErrorEntrySavesNothing : Prop :=
  ∀ (i : Instr) (s t : State) (r : Response), s.halted = false → exec i s = .next t →
    t.lastResponse = some r → r.fatal = true →
    t.halted = true ∧ t.regPart = s.regPart ∧ t.slots = s.slots ∧ t.nextPage = s.nextPage ∧ t.pool = s.pool
    ∧ t.responses = r :: s.responses
    ∧ ((∀ e, r ≠ .deviceError e) → t.devstate = s.devstate)
    ∧ ∀ addr sl, (i = .busRead addr ∨ ∃ data, i = .busWrite addr data) → s.lookup addr = some sl →
      ∀ d, d ≠ sl.dev.toNat → t.devstate[d]? = s.devstate[d]?

/-- 10_state.md R31: the state after reset, over every pool, and that every address is then unmapped. -/
def Obligations.ResetLeavesZeroAndNothingMapped : Prop :=
  ∀ pool : List Descriptor,
    ((State.resetWith pool).pc = 0x0000#16 ∧ (State.resetWith pool).sp = 0x00#8
      ∧ (State.resetWith pool).a = 0x00#8 ∧ (State.resetWith pool).x = 0x00#8
      ∧ (State.resetWith pool).y = 0x00#8 ∧ (State.resetWith pool).p = 0x00#8
      ∧ (State.resetWith pool).slots = [] ∧ (State.resetWith pool).nextPage = 0#9
      ∧ (State.resetWith pool).halted = false ∧ (State.resetWith pool).pool = pool
      ∧ ∀ d : Nat, (State.resetWith pool).devstate[d]? = pool[d]?.map Descriptor.init)
    ∧ ∀ (s : State) (addr : Half), s.slots = [] → s.halted = false →
      exec (.busRead addr) s = .next { s with halted := true, responses := .unmapped :: s.responses }
      ∧ ∀ data : Byte,
        exec (.busWrite addr data) s = .next { s with halted := true, responses := .unmapped :: s.responses }

/-- 70_reset_and_hazards.md R151: only reset clears the latch, empties the mapping or lowers next_page; the event
gives back the state after reset. -/
def Obligations.OnlyResetUndoes : Prop :=
  (∀ s t : State, step s = .next t →
    (s.halted = true → t.halted = true)
    ∧ (∃ more, t.slots = s.slots ++ more)
    ∧ s.nextPage.toNat ≤ t.nextPage.toNat)
  ∧ ∀ s : State,
    s.hostReset.pc = 0x0000#16 ∧ s.hostReset.sp = 0x00#8 ∧ s.hostReset.a = 0x00#8 ∧ s.hostReset.x = 0x00#8
    ∧ s.hostReset.y = 0x00#8 ∧ s.hostReset.p = 0x00#8 ∧ s.hostReset.slots = [] ∧ s.hostReset.nextPage = 0#9
    ∧ s.hostReset.halted = false ∧ s.hostReset.pool = s.pool
    ∧ ∀ d : Nat, s.hostReset.devstate[d]? = s.pool[d]?.map Descriptor.init

/-- The model's reset states, over every well-formed pool (the pool of State.reset is the model's choice, log 3),
meet both invariants. -/
def Obligations.ResetIsSafe : Prop :=
  ∀ pool : List Descriptor, poolWf pool = true →
    BusInv (State.resetWith pool) ∧ DeviceInv (State.resetWith pool)

/-- 10_state.md R23: the invariants (I1) to (I9) hold after reset and every step keeps them, from every state that
meets them. -/
def Obligations.EveryStepKeepsTheBusInvariants : Prop :=
  (∀ pool : List Descriptor, BusInv (State.resetWith pool))
  ∧ ∀ s t : State, BusInv s → step s = .next t → BusInv t

/-- From 20_memory.md R45: every step keeps each device's state of its own kind and stored bytes in canonical form. -/
def Obligations.EveryStepKeepsTheDeviceInvariants : Prop :=
  ∀ s t : State, DeviceInv s → step s = .next t → DeviceInv t

/-! ### Encoding and the step -/

/-- From 30_encoding.md sections 1 to 3: decoding the word of a well-formed command gives the command back, every
operand at every value. -/
def Obligations.DecodeOfEncodeIsTheCommand : Prop :=
  ∀ (ndev : Nat) (i : Instr), i.wf ndev = true → decode ndev (encode i) = .ok i

/-- From 30_encoding.md R61 and R65: a word that decodes is the word of the command it decodes to, and that command
is well formed. -/
def Obligations.EncodeOfDecodeIsTheWord : Prop :=
  ∀ (ndev : Nat) (c : Word) (i : Instr), decode ndev c = .ok i → encode i = c ∧ i.wf ndev = true

/-- 30_encoding.md R71: every word matches exactly one row of the opcode table, and then its device id decides, or
it is illegal. -/
def Obligations.EveryWordMatchesOneRowOrIsIllegal : Prop :=
  (∀ (c : Word) (r r' : OpcodeRow), r ∈ opcodeTable → r' ∈ opcodeTable → r.matches c = true →
    r'.matches c = true → r = r')
  ∧ (∀ (ndev : Nat) (c : Word) (i : Instr), decode ndev c = .ok i →
    i.row ∈ opcodeTable ∧ i.row.matches c = true)
  ∧ ∀ (ndev : Nat) (c : Word),
    (∃ e, decode ndev c = .error e) ↔
      (∀ r ∈ opcodeTable, r.matches c = false) ∨ (c.op = 0x52#8 ∧ ndev ≤ c.b.toNat)

/-- 30_encoding.md R64, 60_exceptions.md R142: a word that spells no command is answered ILLEGAL and changes nothing. -/
def Obligations.IllegalWordChangesNothing : Prop :=
  Response.illegal.fatal = false
  ∧ ∀ (s : State) (c : Word) (rest : List Word), s.commands = c :: rest → s.halted = false →
    ((∀ r ∈ opcodeTable, r.matches c = false) ∨ (c.op = 0x52#8 ∧ s.pool.length ≤ c.b.toNat)) →
    step s = .next { s with commands := rest, responses := .illegal :: s.responses }

/-- From 30_encoding.md section 2 and 95_test_vectors.md section 7: words written out from the encoding tables. -/
def Obligations.KnownWordsDecode : Prop :=
  decode 9 0x10000000#32 = .ok .getPc
  ∧ decode 9 0x20FFFF00#32 = .ok (.setPc 0xFFFF#16)
  ∧ decode 9 0x250000AA#32 = .ok (.setP 0xAA#8)
  ∧ decode 9 0x33000200#32 = .ok (.decSp 0x0002#16)
  ∧ decode 9 0x4100000F#32 = .ok (.setFlag .negative true)
  ∧ decode 9 0x42000001#32 = .ok (.toggleFlag .zero)
  ∧ decode 9 0x5001FF00#32 = .ok (.busRead 0x01FF#16)
  ∧ decode 9 0x510123AB#32 = .ok (.busWrite 0x0123#16 0xAB#8)
  ∧ decode 9 0x52000008#32 = .ok (.busAttach 0x08#8)
  ∧ decode 9 0x16000000#32 = .error .unassignedOpcode
  ∧ decode 9 0x41000010#32 = .error .mustBeZero
  ∧ decode 9 0x52000009#32 = .error .noSuchDevice

/-- From 00_scope.md R5 and 60_exceptions.md R143: the step of a block that is not halted takes the next word off the
port and, where it decodes, is exec of the command. -/
def Obligations.StepRunsTheDecodedCommand : Prop :=
  ∀ (s : State) (c : Word) (rest : List Word) (i : Instr), s.commands = c :: rest → s.halted = false →
    decode s.pool.length c = .ok i → step s = exec i { s with commands := rest }

/-- The word of a well-formed command, presented at the port (the model's own, log 1), is what the next step performs. -/
def Obligations.PresentedCommandIsPerformedNext : Prop :=
  ∀ (s : State) (i : Instr), s.halted = false → i.wf s.pool.length = true →
    step (s.withFetchWord 32 (encode i).toNat) = exec i s

/-- From 30_encoding.md R66 and 00_scope.md R5: a step takes exactly one word and gives exactly one response. -/
def Obligations.OneResponsePerCommand : Prop :=
  ∀ s t : State, step s = .next t →
    ∃ (c : Word) (r : Response), s.commands = c :: t.commands ∧ t.responses = r :: s.responses

/-- Every command and every word runs to a next state; a step stops only where the host presents no command (the
model's choice, log 1). -/
def Obligations.StepStopsOnlyWithoutACommand : Prop :=
  (∀ (i : Instr) (s : State), ∃ t, exec i s = .next t)
  ∧ (∀ s : State, s.commands ≠ [] → ∃ t, step s = .next t)
  ∧ ∀ s : State, s.commands = [] → step s = .fault .noCommand
end

