-- ==== Sys2Proof/Laws/Decode.lean ====
section
/-! SUPPORT. The fields of a word as numbers: the word built from fields has those fields, and a word is built from
its own. -/

namespace Sys2Proof

theorem toNat_append_eq {m n : Nat} (x : BitVec m) (y : BitVec n) :
    (x ++ y).toNat = x.toNat * 2 ^ n + y.toNat := by
  rw [BitVec.toNat_append, ← Nat.shiftLeft_add_eq_or_of_lt y.isLt, Nat.shiftLeft_eq]

theorem toNat_extract_eq {n : Nat} (x : BitVec n) (start len : Nat) :
    (x.extractLsb' start len).toNat = x.toNat / 2 ^ start % 2 ^ len := by
  rw [BitVec.extractLsb'_toNat, Nat.shiftRight_eq_div_pow]

theorem Word.toNat_ofFields (op : Byte) (w : Half) (b : Byte) :
    (Word.ofFields op w b).toNat = op.toNat * 16777216 + w.toNat * 256 + b.toNat := by
  have h : (Word.ofFields op w b).toNat = (op.toNat * 2 ^ 16 + w.toNat) * 2 ^ 8 + b.toNat := by
    unfold Word.ofFields
    rw [toNat_append_eq, toNat_append_eq]
  rw [h]
  ring

theorem Word.toNat_op (c : Word) : c.op.toNat = c.toNat / 16777216 := by
  have h : c.op.toNat = c.toNat / 2 ^ 24 % 2 ^ 8 := toNat_extract_eq c 24 8
  have := c.isLt
  omega

theorem Word.toNat_w (c : Word) : c.w.toNat = c.toNat / 256 % 65536 := toNat_extract_eq c 8 16

theorem Word.toNat_b (c : Word) : c.b.toNat = c.toNat % 256 := by
  have h : c.b.toNat = c.toNat / 2 ^ 0 % 2 ^ 8 := toNat_extract_eq c 0 8
  omega

@[simp] theorem Word.op_ofFields (op : Byte) (w : Half) (b : Byte) : (Word.ofFields op w b).op = op := by
  apply BitVec.eq_of_toNat_eq
  rw [Word.toNat_op, Word.toNat_ofFields]
  have := w.isLt
  have := b.isLt
  omega

@[simp] theorem Word.w_ofFields (op : Byte) (w : Half) (b : Byte) : (Word.ofFields op w b).w = w := by
  apply BitVec.eq_of_toNat_eq
  rw [Word.toNat_w, Word.toNat_ofFields]
  have := w.isLt
  have := b.isLt
  omega

@[simp] theorem Word.b_ofFields (op : Byte) (w : Half) (b : Byte) : (Word.ofFields op w b).b = b := by
  apply BitVec.eq_of_toNat_eq
  rw [Word.toNat_b, Word.toNat_ofFields]
  have := b.isLt
  omega

/-- A word is the word of its own fields. -/
theorem Word.ofFields_self (c : Word) : Word.ofFields c.op c.w c.b = c := by
  apply BitVec.eq_of_toNat_eq
  rw [Word.toNat_ofFields, Word.toNat_op, Word.toNat_w, Word.toNat_b]
  omega

/-- Two words agree when their three fields agree. -/
theorem Word.eq_ofFields_iff (c : Word) (op : Byte) (w : Half) (b : Byte) :
    c = Word.ofFields op w b ↔ c.op = op ∧ c.w = w ∧ c.b = b := by
  constructor
  · rintro rfl
    simp
  · rintro ⟨rfl, rfl, rfl⟩
    exact c.ofFields_self.symm

/-! ### The flag fields -/

theorem Word.flagBits_eq (c : Word) : c.flagBits = c.b.extractLsb' 0 3 := by
  apply BitVec.eq_of_toNat_eq
  rw [toNat_extract_eq, Word.toNat_b]
  have h : c.flagBits.toNat = c.toNat / 2 ^ 0 % 2 ^ 3 := toNat_extract_eq c 0 3
  omega

theorem Word.upperF_eq (c : Word) : c.upperF = c.b.extractLsb' 3 5 := by
  apply BitVec.eq_of_toNat_eq
  rw [toNat_extract_eq, Word.toNat_b]
  have h : c.upperF.toNat = c.toNat / 2 ^ 3 % 2 ^ 5 := toNat_extract_eq c 3 5
  omega

theorem Word.upperFV_eq (c : Word) : c.upperFV = c.b.extractLsb' 4 4 := by
  apply BitVec.eq_of_toNat_eq
  rw [toNat_extract_eq, Word.toNat_b]
  have h : c.upperFV.toNat = c.toNat / 2 ^ 4 % 2 ^ 4 := toNat_extract_eq c 4 4
  omega

theorem Word.valueBit_eq (c : Word) : c.valueBit = c.b.getLsbD 3 := by
  simp [Word.valueBit, Word.b]

@[simp] theorem Flag.ofBits_bits (f : Flag) : Flag.ofBits f.bits = f := by cases f <;> rfl

@[simp] theorem Flag.bits_ofBits (i : BitVec 3) : (Flag.ofBits i).bits = i := by
  revert i
  decide

/-- The `b` field of format F: its selector names the flag and the rest is zero. -/
theorem flagField_eq_iff (b : Byte) (f : Flag) :
    b = flagField f ↔ b.extractLsb' 3 5 = 0 ∧ Flag.ofBits (b.extractLsb' 0 3) = f := by
  revert b
  cases f <;> decide

/-- The `b` field of format FV: selector, value and zeros. -/
theorem flagValueField_eq_iff (b : Byte) (f : Flag) (v : Bool) :
    b = flagValueField f v ↔
      b.extractLsb' 4 4 = 0 ∧ Flag.ofBits (b.extractLsb' 0 3) = f ∧ b.getLsbD 3 = v := by
  revert b
  cases f <;> cases v <;> decide

theorem Flag.index_lt (f : Flag) : f.index < 8 := by cases f <;> decide

theorem Flag.index_inj {f g : Flag} : f.index = g.index ↔ f = g := by
  revert f g
  intro f g
  cases f <;> cases g <;> decide

/-! ### The formats -/

theorem decodeN_ok {c : Word} {i j : Instr} : decodeN c i = .ok j ↔ i = j ∧ c.w = 0 ∧ c.b = 0 := by
  unfold decodeN
  split <;> simp_all

theorem decodeW_ok {c : Word} {i : Half → Instr} {j : Instr} : decodeW c i = .ok j ↔ i c.w = j ∧ c.b = 0 := by
  unfold decodeW
  split <;> simp_all

theorem decodeB_ok {c : Word} {i : Byte → Instr} {j : Instr} : decodeB c i = .ok j ↔ i c.b = j ∧ c.w = 0 := by
  unfold decodeB
  split <;> simp_all

theorem decodeWB_ok {c : Word} {i : Half → Byte → Instr} {j : Instr} : decodeWB c i = .ok j ↔ i c.w c.b = j := by
  simp [decodeWB]

theorem decodeF_ok {c : Word} {i : Flag → Instr} {j : Instr} :
    decodeF c i = .ok j ↔ ∃ f, i f = j ∧ c.w = 0 ∧ c.b = flagField f := by
  unfold decodeF
  simp only [flagField_eq_iff, Word.upperF_eq, Word.flagBits_eq]
  split <;> simp_all

theorem decodeFV_ok {c : Word} {i : Flag → Bool → Instr} {j : Instr} :
    decodeFV c i = .ok j ↔ ∃ f v, i f v = j ∧ c.w = 0 ∧ c.b = flagValueField f v := by
  unfold decodeFV
  simp only [flagValueField_eq_iff, Word.upperFV_eq, Word.flagBits_eq, Word.valueBit_eq]
  split <;> simp_all

/-! ### The row each opcode selects -/

theorem decodeRow_getPc {c : Word} (h : c.op = 0x10#8) : decodeRow c = decodeN c .getPc := by
  delta decodeRow
  rw [h]
  rfl

theorem decodeRow_getSp {c : Word} (h : c.op = 0x11#8) : decodeRow c = decodeN c .getSp := by
  delta decodeRow
  rw [h]
  rfl

theorem decodeRow_getA {c : Word} (h : c.op = 0x12#8) : decodeRow c = decodeN c .getA := by
  delta decodeRow
  rw [h]
  rfl

theorem decodeRow_getX {c : Word} (h : c.op = 0x13#8) : decodeRow c = decodeN c .getX := by
  delta decodeRow
  rw [h]
  rfl

theorem decodeRow_getY {c : Word} (h : c.op = 0x14#8) : decodeRow c = decodeN c .getY := by
  delta decodeRow
  rw [h]
  rfl

theorem decodeRow_getP {c : Word} (h : c.op = 0x15#8) : decodeRow c = decodeN c .getP := by
  delta decodeRow
  rw [h]
  rfl

theorem decodeRow_setPc {c : Word} (h : c.op = 0x20#8) : decodeRow c = decodeW c .setPc := by
  delta decodeRow
  rw [h]
  rfl

theorem decodeRow_setSp {c : Word} (h : c.op = 0x21#8) : decodeRow c = decodeB c .setSp := by
  delta decodeRow
  rw [h]
  rfl

theorem decodeRow_setA {c : Word} (h : c.op = 0x22#8) : decodeRow c = decodeB c .setA := by
  delta decodeRow
  rw [h]
  rfl

theorem decodeRow_setX {c : Word} (h : c.op = 0x23#8) : decodeRow c = decodeB c .setX := by
  delta decodeRow
  rw [h]
  rfl

theorem decodeRow_setY {c : Word} (h : c.op = 0x24#8) : decodeRow c = decodeB c .setY := by
  delta decodeRow
  rw [h]
  rfl

theorem decodeRow_setP {c : Word} (h : c.op = 0x25#8) : decodeRow c = decodeB c .setP := by
  delta decodeRow
  rw [h]
  rfl

theorem decodeRow_incPc {c : Word} (h : c.op = 0x30#8) : decodeRow c = decodeW c .incPc := by
  delta decodeRow
  rw [h]
  rfl

theorem decodeRow_decPc {c : Word} (h : c.op = 0x31#8) : decodeRow c = decodeW c .decPc := by
  delta decodeRow
  rw [h]
  rfl

theorem decodeRow_incSp {c : Word} (h : c.op = 0x32#8) : decodeRow c = decodeW c .incSp := by
  delta decodeRow
  rw [h]
  rfl

theorem decodeRow_decSp {c : Word} (h : c.op = 0x33#8) : decodeRow c = decodeW c .decSp := by
  delta decodeRow
  rw [h]
  rfl

theorem decodeRow_getFlag {c : Word} (h : c.op = 0x40#8) : decodeRow c = decodeF c .getFlag := by
  delta decodeRow
  rw [h]
  rfl

theorem decodeRow_setFlag {c : Word} (h : c.op = 0x41#8) : decodeRow c = decodeFV c .setFlag := by
  delta decodeRow
  rw [h]
  rfl

theorem decodeRow_toggleFlag {c : Word} (h : c.op = 0x42#8) : decodeRow c = decodeF c .toggleFlag := by
  delta decodeRow
  rw [h]
  rfl

theorem decodeRow_busRead {c : Word} (h : c.op = 0x50#8) : decodeRow c = decodeW c .busRead := by
  delta decodeRow
  rw [h]
  rfl

theorem decodeRow_busWrite {c : Word} (h : c.op = 0x51#8) : decodeRow c = decodeWB c .busWrite := by
  delta decodeRow
  rw [h]
  rfl

theorem decodeRow_busAttach {c : Word} (h : c.op = 0x52#8) : decodeRow c = decodeB c .busAttach := by
  delta decodeRow
  rw [h]
  rfl

/-- What decoding answers: the row's command where it is well formed over the pool. -/
theorem decode_ok {ndev : Nat} {c : Word} {i : Instr} :
    decode ndev c = .ok i ↔ decodeRow c = .ok i ∧ i.wf ndev = true := by
  unfold decode
  split <;> rename_i h
  · by_cases hw : (i.wf ndev) = true <;> rename_i i' <;> by_cases hw' : (i'.wf ndev) = true <;>
      simp_all <;> rintro rfl <;> simp_all
  · simp [h]

end Sys2Proof
end

