-- ==== Sys2Proof/Laws/Memory.lean ====
section
/-! SUPPORT. The bytes of a storing device: read after write, and every write keeps the canonical form. -/

namespace Sys2Proof.Machine

theorem wfFrom_cons {k a : Nat} {v : Byte} {m : Memory} :
    Memory.wfFrom k ((a, v) :: m) = true ↔ k ≤ a ∧ a < 65536 ∧ v ≠ 0#8 ∧ Memory.wfFrom (a + 1) m = true := by
  simp [Memory.wfFrom, and_assoc]

theorem wfFrom_mono {k l : Nat} (h : l ≤ k) : ∀ {m : Memory}, Memory.wfFrom k m = true → Memory.wfFrom l m = true
  | [], _ => rfl
  | (_, _) :: _, hm => by
    rw [wfFrom_cons] at hm ⊢
    exact ⟨Nat.le_trans h hm.1, hm.2⟩

/-- Below its first possible address a canonical store lists nothing. -/
theorem memRead_below {k a : Nat} (h : a < k) : ∀ {m : Memory}, Memory.wfFrom k m = true → memRead m a = 0
  | [], _ => rfl
  | (b, v) :: rest, hm => by
    rw [wfFrom_cons] at hm
    have hb : a ≠ b := by omega
    have := memRead_below (m := rest) (k := b + 1) (a := a) (by omega) hm.2.2.2
    simp [memRead, hb, this]

theorem memCons_wfFrom {k a : Nat} {v : Byte} {m : Memory} (hk : k ≤ a) (ha : a < 65536)
    (hm : Memory.wfFrom (a + 1) m = true) : Memory.wfFrom k (memCons a v m) = true := by
  unfold memCons
  split
  · exact wfFrom_mono (by omega) hm
  · exact wfFrom_cons.2 ⟨hk, ha, by assumption, hm⟩

theorem memRead_memCons {a b : Nat} {v : Byte} {m : Memory} (hm : Memory.wfFrom (a + 1) m = true) :
    memRead (memCons a v m) b = if b = a then v else memRead m b := by
  unfold memCons
  split
  · rename_i hv
    split
    · rename_i hb
      rw [hb, memRead_below (Nat.lt_succ_self a) hm, hv]
    · rfl
  · simp [memRead]

/-- A write keeps the canonical form. -/
theorem memWrite_wfFrom {a : Nat} {v : Byte} (ha : a < 65536) :
    ∀ {m : Memory} {k : Nat}, k ≤ a → Memory.wfFrom k m = true → Memory.wfFrom k (memWrite m a v) = true
  | [], _, hk, _ => memCons_wfFrom hk ha rfl
  | (b, u) :: rest, k, hk, hm => by
    rw [wfFrom_cons] at hm
    unfold memWrite
    split
    · exact memCons_wfFrom hk ha (wfFrom_cons.2 ⟨by omega, hm.2⟩)
    · split
      · rename_i hab
        exact memCons_wfFrom hk ha (hab ▸ hm.2.2.2)
      · exact wfFrom_cons.2 ⟨hm.1, hm.2.1, hm.2.2.1, memWrite_wfFrom ha (by omega) hm.2.2.2⟩

theorem memWrite_wf {a : Nat} {v : Byte} {m : Memory} (ha : a < 65536) (hm : m.wf = true) :
    Memory.wf (memWrite m a v) = true :=
  memWrite_wfFrom ha (Nat.zero_le a) hm

/-- A read after a write: the byte written where it was written, every other byte as it was. -/
theorem memRead_memWrite {a b : Nat} {v : Byte} :
    ∀ {m : Memory} {k : Nat}, Memory.wfFrom k m = true →
      memRead (memWrite m a v) b = if b = a then v else memRead m b
  | [], _, _ => memRead_memCons rfl
  | (c, u) :: rest, k, hm => by
    rw [wfFrom_cons] at hm
    unfold memWrite
    split
    · exact memRead_memCons (wfFrom_cons.2 ⟨by omega, hm.2⟩)
    · split
      · rename_i hac
        rw [memRead_memCons (hac ▸ hm.2.2.2)]
        by_cases hb : b = a <;> simp [memRead, hb, ← hac]
      · by_cases hbc : b = c
        · have : b ≠ a := by omega
          simp [memRead, hbc, hbc ▸ this]
        · simp [memRead, hbc, memRead_memWrite hm.2.2.2]

/-! ### The two operations of a device -/

/-- A device's read leaves a state of the device's own kind. -/
theorem devRead_accepts {b : Behaviour} {st : DevState} (l : Half) (h : b.accepts st = true) :
    b.accepts (devRead b st l).2 = true := by
  cases b <;> simp_all [devRead, Behaviour.accepts]

/-- A device's write leaves a state of the device's own kind, a storing device's in canonical form. -/
theorem devWrite_accepts {b : Behaviour} {st : DevState} (l : Half) (v : Byte) (h : b.accepts st = true) :
    b.accepts (devWrite b st l v).2 = true := by
  cases b with
  | ram =>
    cases st with
    | bytes m => exact memWrite_wf l.isLt h
    | none | count | code => exact absurd h (by simp [Behaviour.accepts])
  | discard | rom | counter | general => simp_all [devWrite, Behaviour.accepts]

end Sys2Proof.Machine
end

