-- ==== Sys2Proof/Laws/State.lean ====
section
/-! SUPPORT. What each update of the state does to each field, so that no later proof unfolds one. -/

namespace Sys2Proof.Machine

@[simp] theorem State.respond_pc (s : State) (r : Response) : (s.respond r).pc = s.pc := rfl
@[simp] theorem State.respond_sp (s : State) (r : Response) : (s.respond r).sp = s.sp := rfl
@[simp] theorem State.respond_a (s : State) (r : Response) : (s.respond r).a = s.a := rfl
@[simp] theorem State.respond_x (s : State) (r : Response) : (s.respond r).x = s.x := rfl
@[simp] theorem State.respond_y (s : State) (r : Response) : (s.respond r).y = s.y := rfl
@[simp] theorem State.respond_p (s : State) (r : Response) : (s.respond r).p = s.p := rfl
@[simp] theorem State.respond_slots (s : State) (r : Response) : (s.respond r).slots = s.slots := rfl
@[simp] theorem State.respond_nextPage (s : State) (r : Response) : (s.respond r).nextPage = s.nextPage := rfl
@[simp] theorem State.respond_devstate (s : State) (r : Response) : (s.respond r).devstate = s.devstate := rfl
@[simp] theorem State.respond_halted (s : State) (r : Response) : (s.respond r).halted = s.halted := rfl
@[simp] theorem State.respond_pool (s : State) (r : Response) : (s.respond r).pool = s.pool := rfl
@[simp] theorem State.respond_commands (s : State) (r : Response) : (s.respond r).commands = s.commands := rfl
@[simp] theorem State.respond_responses (s : State) (r : Response) : (s.respond r).responses = r :: s.responses := rfl

@[simp] theorem State.raise_pc (s : State) (r : Response) : (s.raise r).pc = s.pc := rfl
@[simp] theorem State.raise_sp (s : State) (r : Response) : (s.raise r).sp = s.sp := rfl
@[simp] theorem State.raise_a (s : State) (r : Response) : (s.raise r).a = s.a := rfl
@[simp] theorem State.raise_x (s : State) (r : Response) : (s.raise r).x = s.x := rfl
@[simp] theorem State.raise_y (s : State) (r : Response) : (s.raise r).y = s.y := rfl
@[simp] theorem State.raise_p (s : State) (r : Response) : (s.raise r).p = s.p := rfl
@[simp] theorem State.raise_slots (s : State) (r : Response) : (s.raise r).slots = s.slots := rfl
@[simp] theorem State.raise_nextPage (s : State) (r : Response) : (s.raise r).nextPage = s.nextPage := rfl
@[simp] theorem State.raise_devstate (s : State) (r : Response) : (s.raise r).devstate = s.devstate := rfl
@[simp] theorem State.raise_halted (s : State) (r : Response) : (s.raise r).halted = (s.halted || r.fatal) := rfl
@[simp] theorem State.raise_pool (s : State) (r : Response) : (s.raise r).pool = s.pool := rfl
@[simp] theorem State.raise_commands (s : State) (r : Response) : (s.raise r).commands = s.commands := rfl
@[simp] theorem State.raise_responses (s : State) (r : Response) : (s.raise r).responses = r :: s.responses := rfl

@[simp] theorem State.setPc_pc (s : State) (v : Half) : (s.setPc v).pc = v := rfl
@[simp] theorem State.setPc_sp (s : State) (v : Half) : (s.setPc v).sp = s.sp := rfl
@[simp] theorem State.setPc_a (s : State) (v : Half) : (s.setPc v).a = s.a := rfl
@[simp] theorem State.setPc_x (s : State) (v : Half) : (s.setPc v).x = s.x := rfl
@[simp] theorem State.setPc_y (s : State) (v : Half) : (s.setPc v).y = s.y := rfl
@[simp] theorem State.setPc_p (s : State) (v : Half) : (s.setPc v).p = s.p := rfl
@[simp] theorem State.setPc_slots (s : State) (v : Half) : (s.setPc v).slots = s.slots := rfl
@[simp] theorem State.setPc_nextPage (s : State) (v : Half) : (s.setPc v).nextPage = s.nextPage := rfl
@[simp] theorem State.setPc_devstate (s : State) (v : Half) : (s.setPc v).devstate = s.devstate := rfl
@[simp] theorem State.setPc_halted (s : State) (v : Half) : (s.setPc v).halted = s.halted := rfl
@[simp] theorem State.setPc_pool (s : State) (v : Half) : (s.setPc v).pool = s.pool := rfl
@[simp] theorem State.setPc_commands (s : State) (v : Half) : (s.setPc v).commands = s.commands := rfl
@[simp] theorem State.setPc_responses (s : State) (v : Half) : (s.setPc v).responses = s.responses := rfl

@[simp] theorem State.setSp_pc (s : State) (v : Byte) : (s.setSp v).pc = s.pc := rfl
@[simp] theorem State.setSp_sp (s : State) (v : Byte) : (s.setSp v).sp = v := rfl
@[simp] theorem State.setSp_a (s : State) (v : Byte) : (s.setSp v).a = s.a := rfl
@[simp] theorem State.setSp_x (s : State) (v : Byte) : (s.setSp v).x = s.x := rfl
@[simp] theorem State.setSp_y (s : State) (v : Byte) : (s.setSp v).y = s.y := rfl
@[simp] theorem State.setSp_p (s : State) (v : Byte) : (s.setSp v).p = s.p := rfl
@[simp] theorem State.setSp_slots (s : State) (v : Byte) : (s.setSp v).slots = s.slots := rfl
@[simp] theorem State.setSp_nextPage (s : State) (v : Byte) : (s.setSp v).nextPage = s.nextPage := rfl
@[simp] theorem State.setSp_devstate (s : State) (v : Byte) : (s.setSp v).devstate = s.devstate := rfl
@[simp] theorem State.setSp_halted (s : State) (v : Byte) : (s.setSp v).halted = s.halted := rfl
@[simp] theorem State.setSp_pool (s : State) (v : Byte) : (s.setSp v).pool = s.pool := rfl
@[simp] theorem State.setSp_commands (s : State) (v : Byte) : (s.setSp v).commands = s.commands := rfl
@[simp] theorem State.setSp_responses (s : State) (v : Byte) : (s.setSp v).responses = s.responses := rfl

@[simp] theorem State.setA_pc (s : State) (v : Byte) : (s.setA v).pc = s.pc := rfl
@[simp] theorem State.setA_sp (s : State) (v : Byte) : (s.setA v).sp = s.sp := rfl
@[simp] theorem State.setA_a (s : State) (v : Byte) : (s.setA v).a = v := rfl
@[simp] theorem State.setA_x (s : State) (v : Byte) : (s.setA v).x = s.x := rfl
@[simp] theorem State.setA_y (s : State) (v : Byte) : (s.setA v).y = s.y := rfl
@[simp] theorem State.setA_p (s : State) (v : Byte) : (s.setA v).p = s.p := rfl
@[simp] theorem State.setA_slots (s : State) (v : Byte) : (s.setA v).slots = s.slots := rfl
@[simp] theorem State.setA_nextPage (s : State) (v : Byte) : (s.setA v).nextPage = s.nextPage := rfl
@[simp] theorem State.setA_devstate (s : State) (v : Byte) : (s.setA v).devstate = s.devstate := rfl
@[simp] theorem State.setA_halted (s : State) (v : Byte) : (s.setA v).halted = s.halted := rfl
@[simp] theorem State.setA_pool (s : State) (v : Byte) : (s.setA v).pool = s.pool := rfl
@[simp] theorem State.setA_commands (s : State) (v : Byte) : (s.setA v).commands = s.commands := rfl
@[simp] theorem State.setA_responses (s : State) (v : Byte) : (s.setA v).responses = s.responses := rfl

@[simp] theorem State.setX_pc (s : State) (v : Byte) : (s.setX v).pc = s.pc := rfl
@[simp] theorem State.setX_sp (s : State) (v : Byte) : (s.setX v).sp = s.sp := rfl
@[simp] theorem State.setX_a (s : State) (v : Byte) : (s.setX v).a = s.a := rfl
@[simp] theorem State.setX_x (s : State) (v : Byte) : (s.setX v).x = v := rfl
@[simp] theorem State.setX_y (s : State) (v : Byte) : (s.setX v).y = s.y := rfl
@[simp] theorem State.setX_p (s : State) (v : Byte) : (s.setX v).p = s.p := rfl
@[simp] theorem State.setX_slots (s : State) (v : Byte) : (s.setX v).slots = s.slots := rfl
@[simp] theorem State.setX_nextPage (s : State) (v : Byte) : (s.setX v).nextPage = s.nextPage := rfl
@[simp] theorem State.setX_devstate (s : State) (v : Byte) : (s.setX v).devstate = s.devstate := rfl
@[simp] theorem State.setX_halted (s : State) (v : Byte) : (s.setX v).halted = s.halted := rfl
@[simp] theorem State.setX_pool (s : State) (v : Byte) : (s.setX v).pool = s.pool := rfl
@[simp] theorem State.setX_commands (s : State) (v : Byte) : (s.setX v).commands = s.commands := rfl
@[simp] theorem State.setX_responses (s : State) (v : Byte) : (s.setX v).responses = s.responses := rfl

@[simp] theorem State.setY_pc (s : State) (v : Byte) : (s.setY v).pc = s.pc := rfl
@[simp] theorem State.setY_sp (s : State) (v : Byte) : (s.setY v).sp = s.sp := rfl
@[simp] theorem State.setY_a (s : State) (v : Byte) : (s.setY v).a = s.a := rfl
@[simp] theorem State.setY_x (s : State) (v : Byte) : (s.setY v).x = s.x := rfl
@[simp] theorem State.setY_y (s : State) (v : Byte) : (s.setY v).y = v := rfl
@[simp] theorem State.setY_p (s : State) (v : Byte) : (s.setY v).p = s.p := rfl
@[simp] theorem State.setY_slots (s : State) (v : Byte) : (s.setY v).slots = s.slots := rfl
@[simp] theorem State.setY_nextPage (s : State) (v : Byte) : (s.setY v).nextPage = s.nextPage := rfl
@[simp] theorem State.setY_devstate (s : State) (v : Byte) : (s.setY v).devstate = s.devstate := rfl
@[simp] theorem State.setY_halted (s : State) (v : Byte) : (s.setY v).halted = s.halted := rfl
@[simp] theorem State.setY_pool (s : State) (v : Byte) : (s.setY v).pool = s.pool := rfl
@[simp] theorem State.setY_commands (s : State) (v : Byte) : (s.setY v).commands = s.commands := rfl
@[simp] theorem State.setY_responses (s : State) (v : Byte) : (s.setY v).responses = s.responses := rfl

@[simp] theorem State.setP_pc (s : State) (v : Byte) : (s.setP v).pc = s.pc := rfl
@[simp] theorem State.setP_sp (s : State) (v : Byte) : (s.setP v).sp = s.sp := rfl
@[simp] theorem State.setP_a (s : State) (v : Byte) : (s.setP v).a = s.a := rfl
@[simp] theorem State.setP_x (s : State) (v : Byte) : (s.setP v).x = s.x := rfl
@[simp] theorem State.setP_y (s : State) (v : Byte) : (s.setP v).y = s.y := rfl
@[simp] theorem State.setP_p (s : State) (v : Byte) : (s.setP v).p = v := rfl
@[simp] theorem State.setP_slots (s : State) (v : Byte) : (s.setP v).slots = s.slots := rfl
@[simp] theorem State.setP_nextPage (s : State) (v : Byte) : (s.setP v).nextPage = s.nextPage := rfl
@[simp] theorem State.setP_devstate (s : State) (v : Byte) : (s.setP v).devstate = s.devstate := rfl
@[simp] theorem State.setP_halted (s : State) (v : Byte) : (s.setP v).halted = s.halted := rfl
@[simp] theorem State.setP_pool (s : State) (v : Byte) : (s.setP v).pool = s.pool := rfl
@[simp] theorem State.setP_commands (s : State) (v : Byte) : (s.setP v).commands = s.commands := rfl
@[simp] theorem State.setP_responses (s : State) (v : Byte) : (s.setP v).responses = s.responses := rfl

@[simp] theorem State.setDeviceState_pc (s : State) (d : Byte) (st : DevState) : (s.setDeviceState d st).pc = s.pc := rfl
@[simp] theorem State.setDeviceState_sp (s : State) (d : Byte) (st : DevState) : (s.setDeviceState d st).sp = s.sp := rfl
@[simp] theorem State.setDeviceState_a (s : State) (d : Byte) (st : DevState) : (s.setDeviceState d st).a = s.a := rfl
@[simp] theorem State.setDeviceState_x (s : State) (d : Byte) (st : DevState) : (s.setDeviceState d st).x = s.x := rfl
@[simp] theorem State.setDeviceState_y (s : State) (d : Byte) (st : DevState) : (s.setDeviceState d st).y = s.y := rfl
@[simp] theorem State.setDeviceState_p (s : State) (d : Byte) (st : DevState) : (s.setDeviceState d st).p = s.p := rfl
@[simp] theorem State.setDeviceState_slots (s : State) (d : Byte) (st : DevState) : (s.setDeviceState d st).slots = s.slots := rfl
@[simp] theorem State.setDeviceState_nextPage (s : State) (d : Byte) (st : DevState) : (s.setDeviceState d st).nextPage = s.nextPage := rfl
@[simp] theorem State.setDeviceState_devstate (s : State) (d : Byte) (st : DevState) : (s.setDeviceState d st).devstate = s.devstate.set (deviceId d) st := rfl
@[simp] theorem State.setDeviceState_halted (s : State) (d : Byte) (st : DevState) : (s.setDeviceState d st).halted = s.halted := rfl
@[simp] theorem State.setDeviceState_pool (s : State) (d : Byte) (st : DevState) : (s.setDeviceState d st).pool = s.pool := rfl
@[simp] theorem State.setDeviceState_commands (s : State) (d : Byte) (st : DevState) : (s.setDeviceState d st).commands = s.commands := rfl
@[simp] theorem State.setDeviceState_responses (s : State) (d : Byte) (st : DevState) : (s.setDeviceState d st).responses = s.responses := rfl

@[simp] theorem State.appendSlot_pc (s : State) (d sz : Byte) : (s.appendSlot d sz).pc = s.pc := rfl
@[simp] theorem State.appendSlot_sp (s : State) (d sz : Byte) : (s.appendSlot d sz).sp = s.sp := rfl
@[simp] theorem State.appendSlot_a (s : State) (d sz : Byte) : (s.appendSlot d sz).a = s.a := rfl
@[simp] theorem State.appendSlot_x (s : State) (d sz : Byte) : (s.appendSlot d sz).x = s.x := rfl
@[simp] theorem State.appendSlot_y (s : State) (d sz : Byte) : (s.appendSlot d sz).y = s.y := rfl
@[simp] theorem State.appendSlot_p (s : State) (d sz : Byte) : (s.appendSlot d sz).p = s.p := rfl
@[simp] theorem State.appendSlot_slots (s : State) (d sz : Byte) : (s.appendSlot d sz).slots = s.slots ++ [⟨s.nextBase, sz, d⟩] := rfl
@[simp] theorem State.appendSlot_nextPage (s : State) (d sz : Byte) : (s.appendSlot d sz).nextPage = BitVec.ofNat 9 (s.nextPage.toNat + sz.toNat) := rfl
@[simp] theorem State.appendSlot_devstate (s : State) (d sz : Byte) : (s.appendSlot d sz).devstate = s.devstate := rfl
@[simp] theorem State.appendSlot_halted (s : State) (d sz : Byte) : (s.appendSlot d sz).halted = s.halted := rfl
@[simp] theorem State.appendSlot_pool (s : State) (d sz : Byte) : (s.appendSlot d sz).pool = s.pool := rfl
@[simp] theorem State.appendSlot_commands (s : State) (d sz : Byte) : (s.appendSlot d sz).commands = s.commands := rfl
@[simp] theorem State.appendSlot_responses (s : State) (d sz : Byte) : (s.appendSlot d sz).responses = s.responses := rfl

@[simp] theorem State.lastResponse_respond (s : State) (r : Response) : (s.respond r).lastResponse = some r := rfl
@[simp] theorem State.lastResponse_raise (s : State) (r : Response) : (s.raise r).lastResponse = some r := rfl

/-- What taking a command leaves: the rest of the stream, and all else as it was. -/
theorem State.takeCommand_eq_some {s t : State} {c : Word} :
    s.takeCommand = some (c, t) ↔ ∃ rest, s.commands = c :: rest ∧ t = { s with commands := rest } := by
  unfold State.takeCommand
  split <;> rename_i h <;> simp [h, eq_comm]

theorem State.takeCommand_eq_none {s : State} : s.takeCommand = none ↔ s.commands = [] := by
  unfold State.takeCommand
  split <;> rename_i h <;> simp [h]

end Sys2Proof.Machine
end

