-- ==== Sys2Proof/Laws/Ops.lean ====
section
/-! SUPPORT. What each shared operation can do, said once: the halt gate, the wrap helper, the bus decoder, the
accesses and the allocator. -/

namespace Sys2Proof.Machine

@[simp] theorem Config.pageBytes_eq : Config.pageBytes = 256 := rfl

@[simp] theorem Config.totalPages_eq : Config.totalPages = 256 := rfl

@[simp] theorem deviceId_eq (dev : Byte) : deviceId dev = dev.toNat := rfl

/-! ### The halt gate -/

theorem gated_running {s : State} (h : s.halted = false) (f : State → State) : gated s f = .next (f s) := by
  simp [gated, h]

theorem gated_halted {s : State} (h : s.halted = true) (f : State → State) :
    gated s f = .next { s with responses := .halted :: s.responses } := by
  simp [gated, h, State.raise, Response.fatal]

/-- What a gated command answers: HALTED with nothing done, or its own effect. -/
theorem gated_next {s t : State} {f : State → State} :
    gated s f = .next t ↔
      (s.halted = true ∧ t = s.raise .halted) ∨ (s.halted = false ∧ t = f s) := by
  unfold gated
  cases s.halted <;> simp [eq_comm]

/-! ### The wrap helper -/

theorem wrapAdd_toNat (N : Nat) (r : BitVec N) (n : Nat) : (wrapAdd N r n).toNat = (r.toNat + n) % 2 ^ N :=
  BitVec.toNat_ofNat ..

theorem wrapSub_toNat (N : Nat) (r : BitVec N) (n : Nat) :
    ((wrapSub N r n).toNat : Int) = ((r.toNat : Int) - (n : Int)) % (2 ^ N : Int) := by
  have hpos : (0 : Int) < 2 ^ N := by positivity
  have h := Int.emod_nonneg ((r.toNat : Int) - (n : Int)) (ne_of_gt hpos)
  simp only [wrapSub, BitVec.toNat_ofInt]
  push_cast
  rw [Int.toNat_of_nonneg h]

theorem wrapAdd_eq_add (N : Nat) (r n : BitVec N) : wrapAdd N r n.toNat = r + n := by
  apply BitVec.eq_of_toNat_eq
  rw [wrapAdd_toNat, BitVec.toNat_add]

theorem wrapSub_eq_sub (N : Nat) (r n : BitVec N) : wrapSub N r n.toNat = r - n := by
  apply BitVec.eq_of_toNat_eq
  have hn : n.toNat ≤ 2 ^ N := n.isLt.le
  zify
  rw [wrapSub_toNat, BitVec.toNat_sub]
  push_cast [Nat.cast_sub hn]
  rw [show (2 ^ N - (n.toNat : Int) + r.toNat) = (r.toNat - n.toNat) + 2 ^ N by ring, Int.add_emod_right]

/-! ### The bus decoder -/

theorem Slot.hit_iff {sl : Slot} {addr : Half} :
    sl.hit addr = true ↔
      sl.base.toNat ≤ addr.toNat ∧ addr.toNat < sl.base.toNat + 256 * sl.pages.toNat := by
  simp only [Slot.hit, Bool.and_eq_true, decide_eq_true_eq]
  simp only [Slot.upper, Config.pageBytes_eq]

/-- A lookup that answers a slot answers one of the table that the address hits. -/
theorem State.lookup_some {s : State} {addr : Half} {sl : Slot} (h : s.lookup addr = some sl) :
    (∃ k : Nat, s.slots[k]? = some sl) ∧ sl.base.toNat ≤ addr.toNat
      ∧ addr.toNat < sl.base.toNat + 256 * sl.pages.toNat :=
  ⟨List.mem_iff_getElem?.1 (List.mem_of_find?_eq_some h), Slot.hit_iff.1 (List.find?_some (p := fun sl : Slot => sl.hit addr) h)⟩

theorem State.lookup_none {s : State} {addr : Half} :
    s.lookup addr = none ↔ ∀ sl ∈ s.slots, ¬(sl.base.toNat ≤ addr.toNat
      ∧ addr.toNat < sl.base.toNat + 256 * sl.pages.toNat) := by
  simp only [State.lookup, List.find?_eq_none, Slot.hit_iff]

theorem State.behaviourOf_eq {s : State} {dev : Byte} :
    s.behaviourOf dev = s.pool[dev.toNat]?.bind fun d => d.cap.behaviour? := rfl

/-- What routing answers. -/
theorem State.route_cases (s : State) (addr : Half) :
    (s.lookup addr = none ∧ s.route addr = .error .unmapped)
    ∨ (∃ sl, s.lookup addr = some sl ∧ s.behaviourOf sl.dev = none ∧ s.route addr = .error .notAddressable)
    ∨ ∃ sl b, s.lookup addr = some sl ∧ s.behaviourOf sl.dev = some b
        ∧ s.route addr = .ok ⟨sl.dev, b, addr - sl.base⟩ := by
  unfold State.route
  cases hl : s.lookup addr with
  | none => simp
  | some sl => cases hb : s.behaviourOf sl.dev <;> simp [hb, Slot.local]

/-! ### The accesses -/

/-- Everything a read that passes the gate can do. -/
theorem State.busRead_cases (s : State) (addr : Half) :
    (s.lookup addr = none ∧ s.busRead addr = s.raise .unmapped)
    ∨ (∃ sl, s.lookup addr = some sl ∧ s.behaviourOf sl.dev = none ∧ s.busRead addr = s.raise .notAddressable)
    ∨ ∃ sl b, s.lookup addr = some sl ∧ s.behaviourOf sl.dev = some b
        ∧ s.busRead addr
          = (s.setDeviceState sl.dev (devRead b (s.deviceState sl.dev) (addr - sl.base)).2).answerRead
              (devRead b (s.deviceState sl.dev) (addr - sl.base)).1 := by
  rcases s.route_cases addr with ⟨hl, hr⟩ | ⟨sl, hl, hb, hr⟩ | ⟨sl, b, hl, hb, hr⟩
  · exact .inl ⟨hl, by simp only [State.busRead, hr]⟩
  · exact .inr (.inl ⟨sl, hl, hb, by simp only [State.busRead, hr]⟩)
  · exact .inr (.inr ⟨sl, b, hl, hb, by simp only [State.busRead, hr]⟩)

/-- Everything a write that passes the gate can do. -/
theorem State.busWrite_cases (s : State) (addr : Half) (data : Byte) :
    (s.lookup addr = none ∧ s.busWrite addr data = s.raise .unmapped)
    ∨ (∃ sl, s.lookup addr = some sl ∧ s.behaviourOf sl.dev = none
        ∧ s.busWrite addr data = s.raise .notAddressable)
    ∨ ∃ sl b, s.lookup addr = some sl ∧ s.behaviourOf sl.dev = some b
        ∧ s.busWrite addr data
          = (s.setDeviceState sl.dev (devWrite b (s.deviceState sl.dev) (addr - sl.base) data).2).answerWrite
              (devWrite b (s.deviceState sl.dev) (addr - sl.base) data).1 := by
  rcases s.route_cases addr with ⟨hl, hr⟩ | ⟨sl, hl, hb, hr⟩ | ⟨sl, b, hl, hb, hr⟩
  · exact .inl ⟨hl, by simp only [State.busWrite, hr]⟩
  · exact .inr (.inl ⟨sl, hl, hb, by simp only [State.busWrite, hr]⟩)
  · exact .inr (.inr ⟨sl, b, hl, hb, by simp only [State.busWrite, hr]⟩)

/-- The answer to an access: one response, the latch set by a fatal error, nothing else. -/
theorem State.answerRead_cases (s : State) (reply : ReadReply) :
    (∃ v, reply = .byte v ∧ s.answerRead reply = s.respond (.ok (zext16 v)))
    ∨ ∃ e, reply = .error e ∧ s.answerRead reply = s.raise (.deviceError e) := by
  cases reply <;> simp [State.answerRead]

theorem State.answerWrite_cases (s : State) (reply : WriteReply) :
    (reply = .done ∧ s.answerWrite reply = s.respond (.ok noValue))
    ∨ ∃ e, reply = .error e ∧ s.answerWrite reply = s.raise (.deviceError e) := by
  cases reply <;> simp [State.answerWrite]

/-! ### The allocator -/

theorem State.isAttached_iff {s : State} {dev : Byte} :
    s.isAttached dev = true ↔ ∃ sl ∈ s.slots, sl.dev = dev := by
  simp [State.isAttached]

/-- Everything an attach that passes the gate can do: one of five errors with nothing changed, or the append. -/
theorem State.busAttach_cases (s : State) (dev : Byte) :
    (s.pool[dev.toNat]? = none ∧ s.busAttach dev = s.raise .illegal)
    ∨ ∃ d, s.pool[dev.toNat]? = some d ∧
      ((d.cap.sizePages? = none ∧ s.busAttach dev = s.raise .notSized)
      ∨ ∃ sz, d.cap.sizePages? = some sz ∧
        ((sz = 0#8 ∧ s.busAttach dev = s.raise .allocZeroPages)
        ∨ (sz ≠ 0#8 ∧ (∃ sl ∈ s.slots, sl.dev = dev) ∧ s.busAttach dev = s.raise .allocAlreadyAttached)
        ∨ (sz ≠ 0#8 ∧ (∀ sl ∈ s.slots, sl.dev ≠ dev) ∧ s.nextPage.toNat + sz.toNat > 256
            ∧ s.busAttach dev = s.raise .allocExhausted)
        ∨ (sz ≠ 0#8 ∧ (∀ sl ∈ s.slots, sl.dev ≠ dev) ∧ s.nextPage.toNat + sz.toNat ≤ 256
            ∧ s.busAttach dev = (s.appendSlot dev sz).respond (.ok s.nextBase)))) := by
  unfold State.busAttach State.attachCheck
  cases hp : s.pool[dev.toNat]? with
  | none => simp [hp]
  | some d =>
    cases hs : d.cap.sizePages? with
    | none => simp [hp, hs]
    | some sz =>
      by_cases hz : sz = 0#8
      · simp [hp, hs, hz]
      · by_cases ha : ∃ sl ∈ s.slots, sl.dev = dev
        · have := State.isAttached_iff.2 ha
          simp [hp, hs, hz, ha, this]
        · have hn : s.isAttached dev = false := by
            rw [← Bool.not_eq_true, State.isAttached_iff]
            exact ha
          have ha' : ∀ sl ∈ s.slots, sl.dev ≠ dev := fun sl hm he => ha ⟨sl, hm, he⟩
          clear ha
          by_cases hx : s.nextPage.toNat + sz.toNat > 256
          · simp [hp, hs, hz, hn, hx]; exact .inr (.inl ha')
          · simp [hp, hs, hz, hn, hx, Nat.le_of_not_lt hx]; exact .inr ha'

end Sys2Proof.Machine
end

