-- ==== Sys2Proof/Laws/Step.lean ====
section
/-! SUPPORT. What a command and a step can do, said once. -/

namespace Sys2Proof.Machine

/-- The effect of a command that passes the halt gate. -/
def effect (i : Instr) (s : State) : State :=
  match i with
  | .getPc => s.respond (.ok s.pc)
  | .getSp => s.respond (.ok (zext16 s.sp))
  | .getA => s.respond (.ok (zext16 s.a))
  | .getX => s.respond (.ok (zext16 s.x))
  | .getY => s.respond (.ok (zext16 s.y))
  | .getP => s.respond (.ok (zext16 s.p))
  | .setPc v => (s.setPc v).respond (.ok noValue)
  | .setSp v => (s.setSp v).respond (.ok noValue)
  | .setA v => (s.setA v).respond (.ok noValue)
  | .setX v => (s.setX v).respond (.ok noValue)
  | .setY v => (s.setY v).respond (.ok noValue)
  | .setP v => (s.setP v).respond (.ok noValue)
  | .incPc n => (s.setPc (wrapAdd 16 s.pc (pcCount n))).respond (.ok noValue)
  | .decPc n => (s.setPc (wrapSub 16 s.pc (pcCount n))).respond (.ok noValue)
  | .incSp n => (s.setSp (wrapAdd 8 s.sp (spCount n))).respond (.ok noValue)
  | .decSp n => (s.setSp (wrapSub 8 s.sp (spCount n))).respond (.ok noValue)
  | .getFlag f => s.respond (.ok (zext16Bit (flagGet s.p f)))
  | .setFlag f v => (s.setP (flagSet s.p f v)).respond (.ok noValue)
  | .toggleFlag f => (s.setP (flagToggle s.p f)).respond (.ok noValue)
  | .busRead addr => s.busRead addr
  | .busWrite addr data => s.busWrite addr data
  | .busAttach dev => s.busAttach dev

/-- Every command is its effect behind the halt gate. -/
theorem exec_eq_gated (i : Instr) (s : State) : exec i s = gated s (effect i) := by
  cases i <;> rfl

theorem exec_running {s : State} (h : s.halted = false) (i : Instr) : exec i s = .next (effect i s) := by
  rw [exec_eq_gated, gated_running h]

theorem exec_halted {s : State} (h : s.halted = true) (i : Instr) :
    exec i s = .next { s with responses := .halted :: s.responses } := by
  rw [exec_eq_gated, gated_halted h]

/-- Everything a command can answer. -/
theorem exec_next {i : Instr} {s t : State} :
    exec i s = .next t ↔ (s.halted = true ∧ t = s.raise .halted) ∨ (s.halted = false ∧ t = effect i s) := by
  rw [exec_eq_gated, gated_next]

/-- Everything a step can answer: the next word is taken, then HALTED, ILLEGAL, or the command it spells. -/
theorem step_next {s t : State} (h : step s = .next t) :
    ∃ c rest, s.commands = c :: rest ∧
      ((s.halted = true ∧ t = State.raise { s with commands := rest } .halted)
      ∨ (s.halted = false ∧ (∃ e, decode s.pool.length c = .error e)
          ∧ t = State.raise { s with commands := rest } .illegal)
      ∨ ∃ i, s.halted = false ∧ decode s.pool.length c = .ok i ∧ t = effect i { s with commands := rest }) := by
  unfold step at h
  split at h
  · cases h
  · rename_i c u hu
    obtain ⟨rest, hc, rfl⟩ := State.takeCommand_eq_some.1 hu
    refine ⟨c, rest, hc, ?_⟩
    simp only at h
    cases hh : s.halted with
    | true =>
      simp only [hh] at h
      cases h
      exact .inl ⟨rfl, rfl⟩
    | false =>
      simp only [hh] at h
      cases hd : decode s.pool.length c with
      | error e =>
        simp only [hd] at h
        cases h
        exact .inr (.inl ⟨rfl, ⟨e, rfl⟩, rfl⟩)
      | ok i =>
        simp only [hd] at h
        rcases exec_next.1 h with ⟨hx, _⟩ | ⟨_, rfl⟩
        · simp at hx
        · exact .inr (.inr ⟨i, rfl, rfl, rfl⟩)

end Sys2Proof.Machine
end

