-- ==== Sys2Proof/Laws/Effects.lean ====
section
/-! SUPPORT. What the effect of a command past the halt gate can be: one response, the pool untouched, the device
state of one owner for an access, one slot more for an attach, nothing of the bus for every other command. -/

namespace Sys2Proof.Machine

/-- Gated or not, a command answers a next state. -/
theorem exec_eq_next (i : Instr) (s : State) :
    exec i s = .next (if s.halted then s.raise .halted else effect i s) := exec_eq_gated i s

/-- An access is a BUS_READ or a BUS_WRITE of the address. -/
def Accesses (i : Instr) (addr : Half) : Prop := i = .busRead addr ∨ ∃ data, i = .busWrite addr data

/-- Everything an access can do: a fatal bus error, or one operation of the owner, whose next state is stored and
whose answer or error is the response. -/
theorem effect_access_cases {i : Instr} {addr : Half} (hi : Accesses i addr) (s : State) :
    (s.lookup addr = none ∧ effect i s = s.raise .unmapped)
    ∨ (∃ sl, s.lookup addr = some sl ∧ s.behaviourOf sl.dev = none ∧ effect i s = s.raise .notAddressable)
    ∨ ∃ sl b st r, s.lookup addr = some sl ∧ s.behaviourOf sl.dev = some b
        ∧ effect i s = (s.setDeviceState sl.dev st).raise r
        ∧ ((∃ v, r = .ok v) ∨ ∃ e, r = .deviceError e)
        ∧ ((i = .busRead addr ∧ st = (devRead b (s.deviceState sl.dev) (addr - sl.base)).2)
          ∨ ∃ data, i = .busWrite addr data ∧ st = (devWrite b (s.deviceState sl.dev) (addr - sl.base) data).2) := by
  have ok : ∀ (u : State) (v : Half), u.respond (.ok v) = u.raise (.ok v) := fun u v => by
    simp [State.respond, State.raise, Response.fatal]
  rcases hi with rfl | ⟨data, rfl⟩
  · rcases s.busRead_cases addr with h | h | ⟨sl, b, hl, hb, he⟩
    · exact .inl h
    · exact .inr (.inl h)
    · rcases State.answerRead_cases (s.setDeviceState sl.dev (devRead b (s.deviceState sl.dev) (addr - sl.base)).2)
        (devRead b (s.deviceState sl.dev) (addr - sl.base)).1 with ⟨v, _, hx⟩ | ⟨e, _, hx⟩
      · exact .inr (.inr ⟨sl, b, _, _, hl, hb, he.trans (hx.trans (ok _ _)), .inl ⟨_, rfl⟩, .inl ⟨rfl, rfl⟩⟩)
      · exact .inr (.inr ⟨sl, b, _, _, hl, hb, he.trans hx, .inr ⟨_, rfl⟩, .inl ⟨rfl, rfl⟩⟩)
  · rcases s.busWrite_cases addr data with h | h | ⟨sl, b, hl, hb, he⟩
    · exact .inl h
    · exact .inr (.inl h)
    · rcases State.answerWrite_cases
        (s.setDeviceState sl.dev (devWrite b (s.deviceState sl.dev) (addr - sl.base) data).2)
        (devWrite b (s.deviceState sl.dev) (addr - sl.base) data).1 with ⟨_, hx⟩ | ⟨e, _, hx⟩
      · exact .inr (.inr ⟨sl, b, _, _, hl, hb, he.trans (hx.trans (ok _ _)), .inl ⟨_, rfl⟩, .inr ⟨data, rfl, rfl⟩⟩)
      · exact .inr (.inr ⟨sl, b, _, _, hl, hb, he.trans hx, .inr ⟨_, rfl⟩, .inr ⟨data, rfl, rfl⟩⟩)

/-- Everything an attach can do, in one line: an error that changes nothing but the responses, or one slot more. -/
theorem effect_attach_cases (dev : Byte) (s : State) :
    (∃ r : Response, r.isError ∧ r.fatal = false ∧ effect (.busAttach dev) s = s.raise r)
    ∨ ∃ d sz, s.pool[dev.toNat]? = some d ∧ d.cap.sizePages? = some sz ∧ sz ≠ 0#8
        ∧ (∀ sl ∈ s.slots, sl.dev ≠ dev) ∧ s.nextPage.toNat + sz.toNat ≤ 256
        ∧ effect (.busAttach dev) s = (s.appendSlot dev sz).respond (.ok s.nextBase) := by
  rcases s.busAttach_cases dev with ⟨_, he⟩ | ⟨d, hp, ⟨_, he⟩ | ⟨sz, hs, ⟨_, he⟩ | ⟨_, _, he⟩ | ⟨_, _, _, he⟩
    | ⟨hz, ha, hx, he⟩⟩⟩
  · exact .inl ⟨.illegal, nofun, rfl, he⟩
  · exact .inl ⟨.notSized, nofun, rfl, he⟩
  · exact .inl ⟨.allocZeroPages, nofun, rfl, he⟩
  · exact .inl ⟨.allocAlreadyAttached, nofun, rfl, he⟩
  · exact .inl ⟨.allocExhausted, nofun, rfl, he⟩
  · exact .inr ⟨d, sz, hp, hs, hz, ha, hx, he⟩

/-- A bus command is an access or an attach. -/
theorem isBus_cases {i : Instr} (hi : i.isBus = true) : (∃ addr, Accesses i addr) ∨ ∃ dev, i = .busAttach dev := by
  cases i with
  | busRead addr => exact .inl ⟨addr, .inl rfl⟩
  | busWrite addr data => exact .inl ⟨addr, .inr ⟨data, rfl⟩⟩
  | busAttach dev => exact .inr ⟨dev, rfl⟩
  | _ => cases hi

/-- A register command leaves the bus and the latch alone and answers OK. -/
theorem effect_register {i : Instr} (hi : i.isBus = false) (s : State) :
    (effect i s).busPart = s.busPart ∧ (effect i s).halted = s.halted ∧ (effect i s).commands = s.commands
      ∧ ∃ v, (effect i s).responses = .ok v :: s.responses := by
  cases i <;> first | exact ⟨rfl, rfl, rfl, _, rfl⟩ | cases hi

/-- A bus command leaves the register file, the pool and the commands to come alone. -/
theorem effect_bus {i : Instr} (hi : i.isBus = true) (s : State) :
    (effect i s).regPart = s.regPart ∧ (effect i s).pool = s.pool ∧ (effect i s).commands = s.commands := by
  rcases isBus_cases hi with ⟨addr, ha⟩ | ⟨dev, rfl⟩
  · rcases effect_access_cases ha s with ⟨_, he⟩ | ⟨_, _, _, he⟩ | ⟨_, _, _, _, _, _, he, _⟩ <;>
      exact he ▸ ⟨rfl, rfl, rfl⟩
  · rcases effect_attach_cases dev s with ⟨_, _, _, he⟩ | ⟨_, _, _, _, _, _, _, he⟩ <;> exact he ▸ ⟨rfl, rfl, rfl⟩

/-- The pool never changes. -/
theorem effect_pool (i : Instr) (s : State) : (effect i s).pool = s.pool := by
  cases hi : i.isBus with
  | true => exact (effect_bus hi s).2.1
  | false => exact congrArg (fun b => b.2.2.2) (effect_register hi s).1

/-- One response a command, and the latch is set when it is fatal. -/
theorem effect_responds (i : Instr) (s : State) :
    ∃ r, (effect i s).responses = r :: s.responses ∧ (effect i s).halted = (s.halted || r.fatal) := by
  cases hi : i.isBus with
  | false =>
    obtain ⟨_, hh, _, v, hr⟩ := effect_register hi s
    exact ⟨.ok v, hr, by simp [hh, Response.fatal]⟩
  | true =>
    rcases isBus_cases hi with ⟨addr, ha⟩ | ⟨dev, rfl⟩
    · rcases effect_access_cases ha s with ⟨_, he⟩ | ⟨_, _, _, he⟩ | ⟨_, _, _, _, _, _, he, _⟩ <;>
        exact he ▸ ⟨_, rfl, rfl⟩
    · rcases effect_attach_cases dev s with ⟨r, _, _, he⟩ | ⟨_, _, _, _, _, _, _, he⟩
      · exact he ▸ ⟨_, rfl, rfl⟩
      · exact he ▸ ⟨_, rfl, by simp [Response.fatal]⟩

/-- The mapping and next_page stay as they are, or one attach adds the device's slot. -/
theorem effect_slots_cases (i : Instr) (s : State) :
    ((effect i s).slots = s.slots ∧ (effect i s).nextPage = s.nextPage)
    ∨ ∃ dev sz d, i = .busAttach dev ∧ s.pool[dev.toNat]? = some d ∧ d.cap.sizePages? = some sz ∧ sz ≠ 0#8
        ∧ (∀ sl ∈ s.slots, sl.dev ≠ dev) ∧ s.nextPage.toNat + sz.toNat ≤ 256
        ∧ effect i s = (s.appendSlot dev sz).respond (.ok s.nextBase) := by
  cases hi : i.isBus with
  | false =>
    have h := (effect_register hi s).1
    exact .inl ⟨congrArg (·.1) h, congrArg (·.2.1) h⟩
  | true =>
    rcases isBus_cases hi with ⟨addr, ha⟩ | ⟨dev, rfl⟩
    · left
      rcases effect_access_cases ha s with ⟨_, he⟩ | ⟨_, _, _, he⟩ | ⟨_, _, _, _, _, _, he, _⟩ <;>
        exact he ▸ ⟨rfl, rfl⟩
    · rcases effect_attach_cases dev s with ⟨_, _, _, he⟩ | ⟨d, sz, hp, hs, hz, ha, hx, he⟩
      · exact .inl (he ▸ ⟨rfl, rfl⟩)
      · exact .inr ⟨dev, sz, d, rfl, hp, hs, hz, ha, hx, he⟩

/-- A read of a byte of the space depends on the mapping, the pool and the owner's state alone. -/
theorem State.peek_congr {s t : State} (hsl : t.slots = s.slots) (hp : t.pool = s.pool) (addr : Half)
    (hd : ∀ sl, s.lookup addr = some sl → t.deviceState sl.dev = s.deviceState sl.dev) : t.peek addr = s.peek addr := by
  have hl : t.lookup addr = s.lookup addr := by simp only [State.lookup, hsl]
  have hb : ∀ d, t.behaviourOf d = s.behaviourOf d := fun d => by simp only [State.behaviourOf, hp]
  unfold State.peek State.route
  rw [hl]
  cases h : s.lookup addr with
  | none => rfl
  | some sl =>
    simp only [hb]
    cases s.behaviourOf sl.dev with
    | none => rfl
    | some b => simp only; rw [hd sl h]

end Sys2Proof.Machine
end

