-- ==== Sys2Proof/Laws/PerInstr.lean ====
section
/-! SUPPORT. Per command: the row of the opcode map that its word selects reads the command back, at every value of
every operand. -/

namespace Sys2Proof.Laws.EncodedInRow

/-- The word of the command selects the command's row, and the row's format reads its operands (30_encoding.md R61, R63). -/
def Statement (i : Instr) : Prop := decodeRow (encode i) = .ok i

theorem getPc : Statement .getPc :=
  (decodeRow_getPc (Word.op_ofFields ..)).trans (decodeN_ok.2 ⟨rfl, Word.w_ofFields .., Word.b_ofFields ..⟩)

theorem getSp : Statement .getSp :=
  (decodeRow_getSp (Word.op_ofFields ..)).trans (decodeN_ok.2 ⟨rfl, Word.w_ofFields .., Word.b_ofFields ..⟩)

theorem getA : Statement .getA :=
  (decodeRow_getA (Word.op_ofFields ..)).trans (decodeN_ok.2 ⟨rfl, Word.w_ofFields .., Word.b_ofFields ..⟩)

theorem getX : Statement .getX :=
  (decodeRow_getX (Word.op_ofFields ..)).trans (decodeN_ok.2 ⟨rfl, Word.w_ofFields .., Word.b_ofFields ..⟩)

theorem getY : Statement .getY :=
  (decodeRow_getY (Word.op_ofFields ..)).trans (decodeN_ok.2 ⟨rfl, Word.w_ofFields .., Word.b_ofFields ..⟩)

theorem getP : Statement .getP :=
  (decodeRow_getP (Word.op_ofFields ..)).trans (decodeN_ok.2 ⟨rfl, Word.w_ofFields .., Word.b_ofFields ..⟩)

theorem setPc (n : Half) : Statement (.setPc n) :=
  (decodeRow_setPc (Word.op_ofFields ..)).trans (decodeW_ok.2 ⟨congrArg Instr.setPc (Word.w_ofFields ..), Word.b_ofFields ..⟩)

theorem setSp (v : Byte) : Statement (.setSp v) :=
  (decodeRow_setSp (Word.op_ofFields ..)).trans (decodeB_ok.2 ⟨congrArg Instr.setSp (Word.b_ofFields ..), Word.w_ofFields ..⟩)

theorem setA (v : Byte) : Statement (.setA v) :=
  (decodeRow_setA (Word.op_ofFields ..)).trans (decodeB_ok.2 ⟨congrArg Instr.setA (Word.b_ofFields ..), Word.w_ofFields ..⟩)

theorem setX (v : Byte) : Statement (.setX v) :=
  (decodeRow_setX (Word.op_ofFields ..)).trans (decodeB_ok.2 ⟨congrArg Instr.setX (Word.b_ofFields ..), Word.w_ofFields ..⟩)

theorem setY (v : Byte) : Statement (.setY v) :=
  (decodeRow_setY (Word.op_ofFields ..)).trans (decodeB_ok.2 ⟨congrArg Instr.setY (Word.b_ofFields ..), Word.w_ofFields ..⟩)

theorem setP (v : Byte) : Statement (.setP v) :=
  (decodeRow_setP (Word.op_ofFields ..)).trans (decodeB_ok.2 ⟨congrArg Instr.setP (Word.b_ofFields ..), Word.w_ofFields ..⟩)

theorem incPc (n : Half) : Statement (.incPc n) :=
  (decodeRow_incPc (Word.op_ofFields ..)).trans (decodeW_ok.2 ⟨congrArg Instr.incPc (Word.w_ofFields ..), Word.b_ofFields ..⟩)

theorem decPc (n : Half) : Statement (.decPc n) :=
  (decodeRow_decPc (Word.op_ofFields ..)).trans (decodeW_ok.2 ⟨congrArg Instr.decPc (Word.w_ofFields ..), Word.b_ofFields ..⟩)

theorem incSp (n : Half) : Statement (.incSp n) :=
  (decodeRow_incSp (Word.op_ofFields ..)).trans (decodeW_ok.2 ⟨congrArg Instr.incSp (Word.w_ofFields ..), Word.b_ofFields ..⟩)

theorem decSp (n : Half) : Statement (.decSp n) :=
  (decodeRow_decSp (Word.op_ofFields ..)).trans (decodeW_ok.2 ⟨congrArg Instr.decSp (Word.w_ofFields ..), Word.b_ofFields ..⟩)

theorem getFlag (f : Flag) : Statement (.getFlag f) :=
  (decodeRow_getFlag (Word.op_ofFields ..)).trans (decodeF_ok.2 ⟨f, rfl, Word.w_ofFields .., Word.b_ofFields ..⟩)

theorem setFlag (f : Flag) (v : Bool) : Statement (.setFlag f v) :=
  (decodeRow_setFlag (Word.op_ofFields ..)).trans (decodeFV_ok.2 ⟨f, v, rfl, Word.w_ofFields .., Word.b_ofFields ..⟩)

theorem toggleFlag (f : Flag) : Statement (.toggleFlag f) :=
  (decodeRow_toggleFlag (Word.op_ofFields ..)).trans (decodeF_ok.2 ⟨f, rfl, Word.w_ofFields .., Word.b_ofFields ..⟩)

theorem busRead (n : Half) : Statement (.busRead n) :=
  (decodeRow_busRead (Word.op_ofFields ..)).trans (decodeW_ok.2 ⟨congrArg Instr.busRead (Word.w_ofFields ..), Word.b_ofFields ..⟩)

theorem busWrite (addr : Half) (data : Byte) : Statement (.busWrite addr data) :=
  (decodeRow_busWrite (Word.op_ofFields ..)).trans (decodeWB_ok.2 (congrArg₂ Instr.busWrite (Word.w_ofFields ..) (Word.b_ofFields ..)))

theorem busAttach (v : Byte) : Statement (.busAttach v) :=
  (decodeRow_busAttach (Word.op_ofFields ..)).trans (decodeB_ok.2 ⟨congrArg Instr.busAttach (Word.b_ofFields ..), Word.w_ofFields ..⟩)

end Sys2Proof.Laws.EncodedInRow
end

