-- ==== Sys2Proof/Laws/Run.lean ====
section
/-! SUPPORT. Runs of the host's Core.run, by steps, and the induction over them packaged once. -/

namespace Sys2Proof.Machine

theorem coreRun_succ (M : Host.Core) {n : Nat} {s t : M.State} :
    M.run (n + 1) s = .next t ↔ ∃ u, M.step s = .next u ∧ M.run n u = .next t := by
  rw [Host.Core.run]
  cases M.step s <;> simp

theorem run_zero {s t : State} : Host.Core.run Sys2Proof.core 0 s = .next t ↔ s = t := by
  show Host.Outcome.next s = .next t ↔ s = t
  simp

/-- A run of n + 1 steps is a step and a run of n. -/
theorem run_succ {n : Nat} {s t : State} :
    Host.Core.run Sys2Proof.core (n + 1) s = .next t ↔
      ∃ u, step s = .next u ∧ Host.Core.run Sys2Proof.core n u = .next t :=
  coreRun_succ Sys2Proof.core

/-- What every step keeps, every run keeps. -/
theorem run_keeps {P : State → Prop} (hstep : ∀ s t, P s → step s = .next t → P t) :
    ∀ (n : Nat) (s t : State), P s → Host.Core.run Sys2Proof.core n s = .next t → P t
  | 0, _, _, hp, h => run_zero.1 h ▸ hp
  | n + 1, _, _, hp, h => by
    obtain ⟨u, hs, hr⟩ := run_succ.1 h
    exact run_keeps hstep n u _ (hstep _ u hp hs) hr

end Sys2Proof.Machine
end

