-- ==== Sys2Proof/Tests/Slice0.lean ====
section
/-! SUPPORT. The model's own tests: what WellFormed refuses, the words of 30_encoding.md and 95_test_vectors.md,
one step of a command on a small block, and for each statement with hypotheses a state that meets them. -/

namespace Sys2Proof.Tests
open Sys2Proof.Machine

/-! ### Small blocks -/

/-- The map of programs P1 steps 1 to 3 (95_test_vectors.md sections 3 and 8.1). -/
def p1Block : State :=
  { State.reset with slots := [⟨0x0000, 2, 2⟩, ⟨0x0200, 1, 1⟩, ⟨0x0300, 1, 3⟩], nextPage := 4 }

/-- The full map of program P4 (sections 3 and 8.4). -/
def fullBlock : State := { State.reset with slots := [⟨0x0000, 255, 5⟩, ⟨0xFF00, 1, 1⟩], nextPage := 256 }

/-- The map of program P4 after its first step: one page is left. -/
def lastPageBlock : State := { State.reset with slots := [⟨0x0000, 255, 5⟩], nextPage := 255 }

/-- The map of program P6: one device whose writes fail fatally (section 8.6). -/
def p6Block : State := { State.reset with slots := [⟨0x0000, 1, 4⟩], nextPage := 1 }

/-- The map of program P7: Discard, then the counting device (section 8.7). -/
def p7Block : State := { State.reset with slots := [⟨0x0000, 1, 1⟩, ⟨0x0100, 1, 7⟩], nextPage := 2 }

/-- A table no BUS_ATTACH builds: Empty is mapped. -/
def brokenBlock : State := { State.reset with slots := [⟨0x0000, 1, 0⟩], nextPage := 1 }

/-- A halted block. -/
def haltedBlock : State := { p1Block with halted := true }

/-- What one step on one command word leaves, seen through `view`. -/
def afterWord {α : Type} (s : State) (c : Word) (view : State → α) : Option α :=
  match step { s with commands := [c] } with
  | .next t => some (view t)
  | _ => none

/-- The response to one command word. -/
def answerTo (s : State) (c : Word) : Option Response := (afterWord s c State.lastResponse).join

/-! ### WellFormed refuses -/

theorem test_wf_attach_refuses_a_device_outside_the_pool :
    Instr.wf 9 (.busAttach 9) = false ∧ Instr.wf 9 (.busAttach 8) = true := by decide

theorem test_wf_memory_refuses_out_of_order : Memory.wf [(1, 0x01#8), (1, 0x02#8)] = false := by decide

theorem test_wf_memory_refuses_a_listed_zero : Memory.wf [(1, 0x00#8)] = false := by decide

theorem test_wf_memory_refuses_an_address_above_the_space :
    Memory.wf [(65536, 0x01#8)] = false ∧ Memory.wf [(65535, 0x01#8)] = true := by decide

theorem test_wf_device_state_of_another_kind :
    Behaviour.accepts .ram (.count 0) = false ∧ Behaviour.accepts .counter .none = false
    ∧ Descriptor.accepts deviceEmpty (.bytes []) = false := by decide

theorem test_wf_pool_refuses_a_bad_initial_state :
    poolWf [⟨"Ram", .sizedAddressable .ram 2, .none⟩] = false ∧ poolWf vectorPool = true := by decide

theorem test_wf_pool_refuses_257_devices : poolWf (List.replicate 257 deviceEmpty) = false := by
  simp only [poolWf, List.length_replicate]
  rfl

/-! ### Decoding: the words of 30_encoding.md R61, R63 and 95_test_vectors.md section 7 -/

theorem test_decode_gets :
    decode 9 0x10000000#32 = .ok .getPc ∧ decode 9 0x11000000#32 = .ok .getSp
    ∧ decode 9 0x12000000#32 = .ok .getA ∧ decode 9 0x13000000#32 = .ok .getX
    ∧ decode 9 0x14000000#32 = .ok .getY ∧ decode 9 0x15000000#32 = .ok .getP := by decide

theorem test_decode_sets :
    decode 9 0x20123400#32 = .ok (.setPc 0x1234#16) ∧ decode 9 0x210000FF#32 = .ok (.setSp 0xFF#8)
    ∧ decode 9 0x22000080#32 = .ok (.setA 0x80#8) ∧ decode 9 0x23000010#32 = .ok (.setX 0x10#8)
    ∧ decode 9 0x2400007F#32 = .ok (.setY 0x7F#8) ∧ decode 9 0x250000FF#32 = .ok (.setP 0xFF#8) := by decide

theorem test_decode_counters :
    decode 9 0x30010000#32 = .ok (.incPc 0x0100#16) ∧ decode 9 0x31000300#32 = .ok (.decPc 0x0003#16)
    ∧ decode 9 0x32FFFF00#32 = .ok (.incSp 0xFFFF#16) ∧ decode 9 0x33000200#32 = .ok (.decSp 0x0002#16) := by
  decide

theorem test_decode_flags :
    decode 9 0x40000006#32 = .ok (.getFlag .overflow) ∧ decode 9 0x4100000B#32 = .ok (.setFlag .decimalMode true)
    ∧ decode 9 0x41000004#32 = .ok (.setFlag .breakCommand false)
    ∧ decode 9 0x42000005#32 = .ok (.toggleFlag .unused) := by decide

theorem test_decode_bus :
    decode 9 0x50FFFF00#32 = .ok (.busRead 0xFFFF#16) ∧ decode 9 0x51FEFF11#32 = .ok (.busWrite 0xFEFF#16 0x11#8)
    ∧ decode 9 0x52000008#32 = .ok (.busAttach 0x08#8) := by decide

/-- Section 7.2: the words of an opcode that is not assigned. -/
theorem test_decode_unassigned :
    decode 9 0x00000000#32 = .error .unassignedOpcode ∧ decode 9 0x16000000#32 = .error .unassignedOpcode
    ∧ decode 9 0xFFFFFFFF#32 = .error .unassignedOpcode ∧ decode 9 0x53000000#32 = .error .unassignedOpcode
    ∧ decode 9 0x34000000#32 = .error .unassignedOpcode := by decide

/-- Section 7.2: the words with a must-be-zero bit set. -/
theorem test_decode_must_be_zero :
    decode 9 0x10000001#32 = .error .mustBeZero ∧ decode 9 0x15000100#32 = .error .mustBeZero
    ∧ decode 9 0x20FFFF01#32 = .error .mustBeZero ∧ decode 9 0x21000100#32 = .error .mustBeZero
    ∧ decode 9 0x40000008#32 = .error .mustBeZero ∧ decode 9 0x41000010#32 = .error .mustBeZero
    ∧ decode 9 0x42000100#32 = .error .mustBeZero ∧ decode 9 0x50000001#32 = .error .mustBeZero
    ∧ decode 9 0x52000100#32 = .error .mustBeZero := by decide

/-- Section 7.2 and 7.3: device ids at or above NDEV. -/
theorem test_decode_no_such_device :
    decode 9 0x520000FF#32 = .error .noSuchDevice ∧ decode 9 0x52000009#32 = .error .noSuchDevice := by decide

theorem test_decode_table_word :
    decodeTableWord 32 0x42000007 = some (.toggleFlag .negative) ∧ decodeTableWord 32 0x16000000 = none := by decide

theorem test_presented_word_is_the_next_one :
    (match step (State.reset.withFetchWord 32 0x20123400) with
      | .next t => t.pc
      | _ => 0) = 0x1234#16 := by decide

/-- 30_encoding.md R68: the examples of the table. -/
theorem test_text :
    Instr.getP.text = "GET_P" ∧ (Instr.setPc 0xFFFF).text = "SET_PC 0xFFFF" ∧ (Instr.decSp 2).text = "DEC_SP 2"
    ∧ (Instr.setFlag .negative true).text = "SET_FLAG Negative, 1"
    ∧ (Instr.busWrite 0x0123 0xAB).text = "BUS_WRITE 0x0123, 0xAB" ∧ (Instr.busAttach 1).text = "BUS_ATTACH dev 1" := by
  decide

/-! ### Register access: 95_test_vectors.md section 4 and program P5 -/

theorem test_get_pc : answerTo { State.reset with pc := 0xBEEF } 0x10000000 = some (.ok 0xBEEF) := by decide
theorem test_get_sp : answerTo { State.reset with sp := 0x11 } 0x11000000 = some (.ok 0x0011) := by decide
theorem test_get_a : answerTo { State.reset with a := 0x80 } 0x12000000 = some (.ok 0x0080) := by decide
theorem test_get_x : answerTo { State.reset with x := 0x33 } 0x13000000 = some (.ok 0x0033) := by decide
theorem test_get_y : answerTo { State.reset with y := 0x44 } 0x14000000 = some (.ok 0x0044) := by decide
theorem test_get_p : answerTo { State.reset with p := 0x55 } 0x15000000 = some (.ok 0x0055) := by decide

theorem test_set_pc : afterWord State.reset 0x20FFFF00 State.regPart = some (0xFFFF, 0, 0, 0, 0, 0) := by decide
theorem test_set_sp : afterWord State.reset 0x210000FF State.regPart = some (0, 0xFF, 0, 0, 0, 0) := by decide
/-- Negative and Zero are not written. -/
theorem test_set_a : afterWord State.reset 0x22000080 State.regPart = some (0, 0, 0x80, 0, 0, 0) := by decide
theorem test_set_x : afterWord State.reset 0x23000010 State.regPart = some (0, 0, 0, 0x10, 0, 0) := by decide
theorem test_set_y : afterWord State.reset 0x2400007F State.regPart = some (0, 0, 0, 0, 0x7F, 0) := by decide
/-- Unused and BreakCommand are written too. -/
theorem test_set_p : afterWord State.reset 0x250000FF State.regPart = some (0, 0, 0, 0, 0, 0xFF) := by decide

/-! ### Counters: section 5 -/

theorem test_inc_pc_wraps : afterWord { State.reset with pc := 0xFFFF } 0x30000100 State.pc = some 0x0000 := by decide
theorem test_inc_pc_whole_count : afterWord { State.reset with pc := 0x1234 } 0x30010000 State.pc = some 0x1334 := by decide
theorem test_dec_pc_wraps : afterWord { State.reset with pc := 0x0000 } 0x31000100 State.pc = some 0xFFFF := by decide
theorem test_dec_pc_largest : afterWord { State.reset with pc := 0x0001 } 0x31FFFF00 State.pc = some 0x0002 := by decide
theorem test_inc_sp_wraps : afterWord { State.reset with sp := 0xFE } 0x32000200 State.sp = some 0x00 := by decide
theorem test_inc_sp_count_mod_256 : afterWord { State.reset with sp := 0x10 } 0x32010100 State.sp = some 0x11 := by decide
theorem test_dec_sp_wraps : afterWord { State.reset with sp := 0x00 } 0x33000200 State.sp = some 0xFE := by decide
theorem test_dec_sp_count_mod_256 : afterWord { State.reset with sp := 0x7F } 0x33FFFF00 State.sp = some 0x80 := by decide

/-! ### Flags: section 6 -/

theorem test_get_flag_set : answerTo { State.reset with p := 0x20 } 0x40000005 = some (.ok 0x0001) := by decide
theorem test_get_flag_clear : answerTo { State.reset with p := 0xDF } 0x40000005 = some (.ok 0x0000) := by decide
theorem test_set_flag_sets : afterWord { State.reset with p := 0x55 } 0x4100000B State.p = some 0x5D := by decide
theorem test_set_flag_clears : afterWord { State.reset with p := 0x55 } 0x41000004 State.p = some 0x45 := by decide
theorem test_toggle_flag_clears : afterWord { State.reset with p := 0xFF } 0x42000006 State.p = some 0xBF := by decide
theorem test_toggle_flag_sets : afterWord { State.reset with p := 0x24 } 0x42000001 State.p = some 0x26 := by decide

/-! ### The bus: programs P1, P4, P6, P7 and P9 -/

/-- P7 step 4: the read answers the count and advances it. -/
theorem test_bus_read_reaches_the_device :
    afterWord { p7Block with devstate := p7Block.devstate.set 7 (.count 1) } 0x5001FF00
        (fun t => (t.lastResponse, t.devstate[7]?))
      = some (some (.ok 0x0001), some (.count 2)) := by decide

/-- P5 step 4: a ROM fixture shows the translated address. -/
theorem test_bus_read_translates : answerTo p1Block 0x5003FF00 = some (.ok 0x00FF) := by decide

/-- P4 step 9: the local address needs all 16 bits. -/
theorem test_bus_write_stores :
    afterWord fullBlock 0x51FEFF11 (fun t => (t.lastResponse, t.devstate[5]?))
      = some (some (.ok 0x0000), some (.bytes [(0xFEFF, 0x11)])) := by decide

/-- P6 step 4: a fatal device error halts, and nothing was written. -/
theorem test_bus_write_fatal_device_error :
    afterWord p6Block 0x51001099 (fun t => (t.lastResponse, t.halted, t.devstate == p6Block.devstate))
      = some (some (.deviceError ⟨true, "write-protected"⟩), true, true) := by decide

/-- P9 step 2: a device error that is not fatal does not halt. -/
theorem test_bus_write_device_error :
    afterWord p1Block 0x5103AA55 (fun t => (t.lastResponse, t.halted))
      = some (some (.deviceError ⟨false, "write-protected"⟩), false) := by decide

/-- P1 step 12: no slot hits above the last device. -/
theorem test_bus_read_unmapped :
    afterWord p1Block 0x50040000 (fun t => (t.lastResponse, t.halted)) = some (some .unmapped, true) := by decide

/-- P4 step 3: the last page of the space. -/
theorem test_bus_attach_last_page :
    afterWord lastPageBlock 0x52000001 (fun t => (t.lastResponse, t.slots, t.nextPage))
      = some (some (.ok 0xFF00), fullBlock.slots, 256) := by decide

/-- P4 steps 2 and 4 to 8, 7.3: every refusal of an attach. -/
theorem test_bus_attach_refusals :
    answerTo lastPageBlock 0x52000002 = some .allocExhausted ∧ answerTo fullBlock 0x52000007 = some .allocExhausted
    ∧ answerTo fullBlock 0x52000006 = some .allocZeroPages ∧ answerTo fullBlock 0x52000005 = some .allocAlreadyAttached
    ∧ answerTo fullBlock 0x52000000 = some .notSized ∧ answerTo fullBlock 0x52000008 = some .notSized
    ∧ answerTo fullBlock 0x52000009 = some .illegal := by decide

/-- 7.4: the halt gate, for a command, for an access that would hit and for an illegal word. -/
theorem test_halt_gate :
    answerTo haltedBlock 0x20123400 = some .halted ∧ afterWord haltedBlock 0x20123400 State.pc = some 0x0000
    ∧ answerTo haltedBlock 0x50000000 = some .halted ∧ answerTo haltedBlock 0x00000000 = some .halted := by decide

/-- Section 3: the decoder table at its boundaries. -/
theorem test_lookup_boundaries :
    (p1Block.lookup 0x01FF).map Slot.dev = some 2 ∧ (p1Block.lookup 0x0200).map Slot.dev = some 1
    ∧ (p1Block.lookup 0x02FF).map Slot.dev = some 1 ∧ (p1Block.lookup 0x0300).map Slot.dev = some 3
    ∧ (p1Block.lookup 0x0400).map Slot.dev = none ∧ (fullBlock.lookup 0xFEFF).map Slot.dev = some 5
    ∧ (fullBlock.lookup 0xFFFF).map Slot.dev = some 1 := by decide

/-- A write of what an unlisted address reads as removes the entry; a lower address goes in front. -/
theorem test_memory_canonical :
    memWrite (memWrite [] 5 0x01) 5 0x00 = [] ∧ memWrite [(5, 0x01)] 2 0x03 = [(2, 0x03), (5, 0x01)] := by decide

/-- R66: the packed form of an OK response, and the fatal bit of an error. -/
theorem test_pack :
    (Response.ok 0x00AB#16).pack 0 = 0x000000AB#32
    ∧ ((Response.deviceError ⟨true, "write-protected"⟩).pack 0).getLsbD 24 = true
    ∧ ((Response.deviceError ⟨true, "write-protected"⟩).pack 0).getLsbD 28 = true :=
  ⟨by decide, (BitVec.getLsbD_append ..).trans rfl, (BitVec.getLsbD_append ..).trans rfl⟩

/-! ### Witnesses: for each statement with hypotheses, states and operands that meet them -/

theorem p1Block_busInv : BusInv p1Block := by
  refine ⟨?_, ?_, ?_, ?_, ?_, ?_, by decide, ?_, ?_⟩
  case refine_1 | refine_4 | refine_5 | refine_7 =>
    intro k sl h
    rcases k with _ | _ | _ | k <;> simp [p1Block] at h <;> subst h <;> decide
  · rintro sl ⟨⟩
    rfl
  · intro k sl next h h'
    rcases k with _ | _ | _ | k <;> simp [p1Block] at h h' <;> subst h h' <;> decide
  · intro j k sl sl' h h' hjk
    rcases j with _ | _ | _ | j <;> simp [p1Block] at h <;> subst h <;>
      rcases k with _ | _ | _ | k <;> simp [p1Block] at h' <;> subst h' <;>
      first | exact absurd rfl hjk | decide
  · intro k sl h
    rcases k with _ | _ | _ | k <;> simp [p1Block] at h <;> subst h <;> exact ⟨_, rfl, rfl⟩

theorem fullBlock_busInv : BusInv fullBlock := by
  refine ⟨?_, ?_, ?_, ?_, ?_, ?_, by decide, ?_, ?_⟩
  case refine_1 | refine_4 | refine_5 | refine_7 =>
    intro k sl h
    rcases k with _ | _ | k <;> simp [fullBlock] at h <;> subst h <;> decide
  · rintro sl ⟨⟩
    rfl
  · intro k sl next h h'
    rcases k with _ | _ | k <;> simp [fullBlock] at h h'
    subst h h'
    decide
  · intro j k sl sl' h h' hjk
    rcases j with _ | _ | j <;> simp [fullBlock] at h <;> subst h <;>
      rcases k with _ | _ | k <;> simp [fullBlock] at h' <;> subst h' <;>
      first | exact absurd rfl hjk | decide
  · intro k sl h
    rcases k with _ | _ | k <;> simp [fullBlock] at h <;> subst h <;> exact ⟨_, rfl, rfl⟩

/-- Every block over the pool of the vectors with that pool's initial states. -/
theorem vectorPool_deviceInv {s : State} (hp : s.pool = vectorPool) (hd : s.devstate = vectorPool.map Descriptor.init) :
    DeviceInv s := by
  refine ⟨by rw [hp]; decide, by rw [hp, hd]; rfl, fun d desc st h h' => ?_⟩
  rw [hp] at h
  rw [hd, List.getElem?_map, h] at h'
  cases h'
  have : ∀ x ∈ vectorPool, x.accepts x.init = true := by decide
  exact this desc (List.mem_of_getElem? h)

/-- The memory of State.reset has its canonical form, and the block is safe. -/
theorem test_reset_is_safe : DeviceInv State.reset ∧ poolWf State.reset.pool = true :=
  ⟨vectorPool_deviceInv rfl rfl, by decide⟩

theorem witness_GetCommandsAnswerTheRegister : State.reset.halted = false ∧ haltedBlock.halted = true := by decide

theorem witness_SetCommandsWriteOneRegister : State.reset.halted = false ∧ haltedBlock.halted = true := by decide

theorem witness_CounterCommandsWrap : State.reset.halted = false ∧ haltedBlock.halted = true := by decide

theorem witness_FlagCommandsActOnOneBit : State.reset.halted = false ∧ haltedBlock.halted = true := by decide

/-- One device id for each clause, the last page of the space on both sides of the last check. -/
theorem witness_AttachFollowsItsChecks :
    haltedBlock.halted = true
    ∧ lastPageBlock.halted = false ∧ lastPageBlock.pool.length ≤ (0x09#8).toNat
    ∧ (∃ d, lastPageBlock.pool[(0x08#8).toNat]? = some d ∧ d.cap.sizePages? = none)
    ∧ (∃ d, lastPageBlock.pool[(0x06#8).toNat]? = some d ∧ d.cap.sizePages? = some 0x00#8)
    ∧ (∃ d, lastPageBlock.pool[(0x05#8).toNat]? = some d ∧ d.cap.sizePages? = some 0xFF#8
        ∧ ∃ sl ∈ lastPageBlock.slots, sl.dev = 0x05#8)
    ∧ (∃ d, lastPageBlock.pool[(0x02#8).toNat]? = some d ∧ d.cap.sizePages? = some 0x02#8
        ∧ (∀ sl ∈ lastPageBlock.slots, sl.dev ≠ 0x02#8) ∧ lastPageBlock.nextPage.toNat + (0x02#8).toNat > 256)
    ∧ ∃ d, lastPageBlock.pool[(0x01#8).toNat]? = some d ∧ d.cap.sizePages? = some 0x01#8
        ∧ (∀ sl ∈ lastPageBlock.slots, sl.dev ≠ 0x01#8) ∧ lastPageBlock.nextPage.toNat + (0x01#8).toNat ≤ 256 :=
  ⟨rfl, rfl, by decide, ⟨_, rfl, rfl⟩, ⟨_, rfl, rfl⟩, ⟨_, rfl, rfl, by decide⟩, ⟨_, rfl, rfl, by decide, by decide⟩,
    _, rfl, rfl, by decide, by decide⟩

/-- The first address of no slot, the last address of a slot, and a table with Empty in it. -/
theorem witness_ReadForwardsToTheOwner :
    haltedBlock.halted = true ∧ p1Block.halted = false ∧ p1Block.lookup 0x0400#16 = none
    ∧ (p1Block.lookup 0x01FF#16 = some ⟨0x0000, 2, 2⟩ ∧ p1Block.behaviourOf 2 = some .ram)
    ∧ brokenBlock.halted = false ∧ brokenBlock.lookup 0x00FF#16 = some ⟨0x0000, 1, 0⟩
    ∧ brokenBlock.behaviourOf 0 = none := by decide

theorem witness_WriteForwardsToTheOwner :
    haltedBlock.halted = true ∧ fullBlock.halted = false ∧ State.reset.lookup 0x0000#16 = none
    ∧ (fullBlock.lookup 0xFFFF#16 = some ⟨0xFF00, 1, 1⟩ ∧ fullBlock.behaviourOf 1 = some .discard)
    ∧ brokenBlock.halted = false ∧ brokenBlock.lookup 0x00FF#16 = some ⟨0x0000, 1, 0⟩
    ∧ brokenBlock.behaviourOf 0 = none := by decide

theorem witness_SetThenGetAnswersTheValue :
    State.reset.halted = false ∧ 0xFFFF < 2 ^ Reg.pc.width ∧ 0xFF < 2 ^ Reg.p.width ∧ Reg.pc ≠ Reg.sp := by decide

theorem witness_CountersUseTheWrapHelper : State.reset.halted = false ∧ haltedBlock.halted = true := by decide

theorem witness_FlagLawsHold :
    State.reset.halted = false ∧ Flag.negative ≠ Flag.carry ∧ WritesFlag (.setFlag .negative true) .negative
    ∧ WritesFlag (.toggleFlag .carry) .carry :=
  ⟨rfl, by decide, .inl ⟨true, rfl⟩, .inr rfl⟩

theorem witness_FlagsHaveNoSideEffects :
    Instr.namesP (.incPc 1) = false ∧ (Instr.getP = .getP ∨ Instr.getP = .getFlag .zero) := by decide

theorem witness_OnlyWritersChangeARegister :
    ∃ t, exec (.incPc 1) State.reset = .next t ∧ Instr.mayWrite (.incPc 1) .p = false := ⟨_, rfl, rfl⟩

theorem witness_RegisterFileAndBusAreIndependent :
    Instr.isBus (.busRead 0) = true ∧ Instr.isBus .getA = false
    ∧ State.reset.regPart = p1Block.regPart ∧ State.reset.halted = p1Block.halted
    ∧ State.reset.responses = p1Block.responses ∧ State.reset ≠ p1Block := by decide

theorem witness_LookupIsTheUniqueHit :
    BusInv p1Block ∧ p1Block.slots[1]? = some ⟨0x0200, 1, 1⟩ ∧ p1Block.lookup 0x0200#16 = some ⟨0x0200, 1, 1⟩ :=
  ⟨p1Block_busInv, rfl, by decide⟩

theorem witness_LocalAddressIsInTheFootprint : fullBlock.lookup 0xFEFF#16 = some ⟨0x0000, 255, 5⟩ := by decide

/-- A full map, and one with an unmapped address. -/
theorem witness_PageLevelDecoderAgrees :
    BusInv fullBlock ∧ fullBlock.lookup 0xFFFF#16 = some ⟨0xFF00, 1, 1⟩
    ∧ BusInv p1Block ∧ p1Block.lookup 0x0400#16 = none :=
  ⟨fullBlock_busInv, by decide, p1Block_busInv, by decide⟩

theorem witness_AccessIsOneOperationOfTheOwner :
    BusInv p1Block ∧ DeviceInv p1Block ∧ p1Block.halted = false ∧ p1Block.slots[0]? = some ⟨0x0000, 2, 2⟩
    ∧ (0x0000#16).toNat ≤ (0x01FF#16).toNat ∧ (0x01FF#16).toNat < (0x0000#16).toNat + 256 * (2#8).toNat :=
  ⟨p1Block_busInv, vectorPool_deviceInv rfl rfl, rfl, rfl, by decide, by decide⟩

theorem witness_AccessLeavesOtherDevicesBytes :
    BusInv p1Block ∧ (∃ t, exec (.busWrite 0x01FF 0xAB) p1Block = .next t)
    ∧ p1Block.lookup 0x0200 ≠ p1Block.lookup 0x01FF := ⟨p1Block_busInv, ⟨_, rfl⟩, by decide⟩

theorem witness_UnmappedAccessIsFatal :
    BusInv p1Block ∧ p1Block.halted = false ∧ p1Block.nextPage.toNat ≤ ((0x0400#16).extractLsb' 8 8).toNat :=
  ⟨p1Block_busInv, rfl, by decide⟩

theorem witness_NotAddressableIsUnreachable :
    brokenBlock.halted = false ∧ brokenBlock.lookup 0x0000#16 = some ⟨0x0000, 1, 0⟩
    ∧ brokenBlock.behaviourOf 0 = none ∧ BusInv p1Block ∧ ∃ t, exec (.busRead 0x0000) p1Block = .next t :=
  ⟨rfl, by decide, by decide, p1Block_busInv, _, rfl⟩

theorem witness_FatalityIsForwardedUnchanged :
    p6Block.halted = false ∧ p6Block.route 0x0010 = .ok ⟨4, .rom true, 0x0010⟩
    ∧ answerTo p6Block 0x51001099 = some (.deviceError (writeProtected true))
    ∧ (Response.deviceError (writeProtected true)).fatal = true := by decide

theorem witness_MappingOnlyGrowsAtItsEnd :
    (∃ t, exec (.busAttach 1) lastPageBlock = .next t) ∧ BusInv fullBlock := ⟨⟨_, rfl⟩, fullBlock_busInv⟩

/-- Two attaches run from reset, and one that fails. -/
theorem witness_AttachedRangesTileTheSpace :
    (∃ t, Host.Core.run Sys2Proof.core 2
        { State.resetWith vectorPool with commands := [0x52000002#32, 0x52000001#32] } = .next t
      ∧ t.slots = [⟨0x0000, 2, 2⟩, ⟨0x0200, 1, 1⟩])
    ∧ ∃ t r, exec (.busAttach 2) lastPageBlock = .next t ∧ t.lastResponse = some r ∧ r.isError :=
  ⟨⟨_, rfl, rfl⟩, _, .allocExhausted, rfl, rfl, nofun⟩

theorem witness_ExhaustedAttachChangesNothing :
    ∃ d, lastPageBlock.halted = false ∧ lastPageBlock.pool[(0x02#8).toNat]? = some d
      ∧ d.cap.sizePages? = some 0x02#8 ∧ lastPageBlock.nextPage.toNat + (0x02#8).toNat > 256 :=
  ⟨_, rfl, rfl, rfl, by decide⟩

/-- An attach that fails, one more command, and the same attach again. -/
theorem witness_FailedAttachKeepsFailing :
    ∃ t u v, exec (.busAttach 2) { lastPageBlock with commands := [0x52000001#32] } = .next t
      ∧ t.lastResponse = some .allocExhausted ∧ Response.allocExhausted.isError
      ∧ Host.Core.run Sys2Proof.core 1 t = .next u ∧ exec (.busAttach 2) u = .next v
      ∧ v.lastResponse = some .allocExhausted :=
  ⟨_, _, _, rfl, rfl, nofun, rfl, rfl, rfl⟩

theorem witness_MappedAddressStaysMapped :
    (∃ t, step { p1Block with commands := [0x52000007#32] } = .next t)
    ∧ p1Block.lookup 0x03FF = some ⟨0x0300, 1, 3⟩ ∧ ∃ t, exec (.busAttach 7) p1Block = .next t :=
  ⟨⟨_, rfl⟩, by decide, _, rfl⟩

theorem witness_DiscardReadsZeroAndAcceptsWrites :
    p1Block.halted = false ∧ p1Block.lookup 0x02FF = some ⟨0x0200, 1, 1⟩ ∧ p1Block.behaviourOf 1 = some .discard := by
  decide

theorem witness_EmptyCannotBeAttached :
    (∃ d, State.reset.halted = false ∧ State.reset.pool[(0x00#8).toNat]? = some d ∧ d.cap = .identityOnly)
    ∧ BusInv p1Block ∧ p1Block.lookup 0x0000 = some ⟨0x0000, 2, 2⟩ ∧ ∃ d, p1Block.pool[(2#8).toNat]? = some d :=
  ⟨⟨_, rfl, rfl, rfl⟩, p1Block_busInv, by decide, _, rfl⟩

theorem witness_DeviceStateChangesOnlyThroughTheBus :
    ∃ t, exec (.busWrite 0x01FF 0xAB) p1Block = .next t ∧ t.devstate[2]? ≠ p1Block.devstate[2]? :=
  ⟨_, rfl, by decide⟩

theorem witness_RamWriteChangesOneByte :
    BusInv fullBlock ∧ DeviceInv fullBlock ∧ fullBlock.halted = false
    ∧ fullBlock.lookup 0xFEFF = some ⟨0x0000, 255, 5⟩ ∧ fullBlock.behaviourOf 5 = some .ram :=
  ⟨fullBlock_busInv, vectorPool_deviceInv rfl rfl, rfl, by decide, by decide⟩

/-- A fatal bus error, a fatal device error, an allocation error and a device id outside the pool. -/
theorem witness_StatusCodesAndTheirCommands :
    p1Block.halted = false
    ∧ (∃ t, exec (.busRead 0x0400) p1Block = .next t ∧ t.lastResponse = some .unmapped)
    ∧ (∃ t, exec (.busWrite 0x0000 0x00) p6Block = .next t
        ∧ t.lastResponse = some (.deviceError (writeProtected true)))
    ∧ (∃ t, exec (.busAttach 6) p1Block = .next t ∧ t.lastResponse = some .allocZeroPages)
    ∧ ∃ t, exec (.busAttach 9) p1Block = .next t ∧ t.lastResponse = some .illegal :=
  ⟨rfl, ⟨_, rfl, rfl⟩, ⟨_, rfl, rfl⟩, ⟨_, rfl, rfl⟩, _, rfl, rfl⟩

theorem witness_PackedResponseFields : Response.ok 0x00AB#16 = .ok 0x00AB#16 ∧ Response.unmapped.isError :=
  ⟨rfl, nofun⟩

/-- Each clause, with a device that answers a byte, one that stores a byte and one that answers an error. -/
theorem witness_FirstOutcomeWins :
    haltedBlock.halted = true ∧ p1Block.halted = false ∧ decode p1Block.pool.length 0x16000000#32 = .error .unassignedOpcode
    ∧ (∃ d t, lastPageBlock.halted = false ∧ lastPageBlock.pool[(0x00#8).toNat]? = some d
        ∧ exec (.busAttach 0x00) lastPageBlock = .next t ∧ d.cap.sizePages? = none)
    ∧ (∃ d t, lastPageBlock.pool[(0x06#8).toNat]? = some d
        ∧ exec (.busAttach 0x06) lastPageBlock = .next t ∧ d.cap.sizePages? = some 0x00#8)
    ∧ (∃ d t, lastPageBlock.pool[(0x05#8).toNat]? = some d
        ∧ exec (.busAttach 0x05) lastPageBlock = .next t ∧ d.cap.sizePages? = some 0xFF#8
        ∧ ∃ sl ∈ lastPageBlock.slots, sl.dev = 0x05#8)
    ∧ (∃ d t, lastPageBlock.pool[(0x02#8).toNat]? = some d
        ∧ exec (.busAttach 0x02) lastPageBlock = .next t ∧ d.cap.sizePages? = some 0x02#8
        ∧ (∀ sl ∈ lastPageBlock.slots, sl.dev ≠ 0x02#8) ∧ lastPageBlock.nextPage.toNat + (0x02#8).toNat > 256)
    ∧ (∃ d t, lastPageBlock.pool[(0x01#8).toNat]? = some d
        ∧ exec (.busAttach 0x01) lastPageBlock = .next t ∧ d.cap.sizePages? = some 0x01#8
        ∧ (∀ sl ∈ lastPageBlock.slots, sl.dev ≠ 0x01#8) ∧ lastPageBlock.nextPage.toNat + (0x01#8).toNat ≤ 256)
    ∧ (∃ t, exec (.busRead 0x0400) p1Block = .next t ∧ p1Block.lookup 0x0400 = none)
    ∧ (∃ t, exec (.busRead 0x0000) brokenBlock = .next t ∧ brokenBlock.lookup 0x0000 = some ⟨0x0000, 1, 0⟩
        ∧ brokenBlock.behaviourOf 0 = none)
    ∧ (∃ t, exec (.busRead 0x03FF) p1Block = .next t ∧ p1Block.lookup 0x03FF = some ⟨0x0300, 1, 3⟩
        ∧ p1Block.behaviourOf 3 = some (.rom false))
    ∧ (∃ t, exec (.busWrite 0x01FF 0xAB) p1Block = .next t ∧ p1Block.lookup 0x01FF = some ⟨0x0000, 2, 2⟩
        ∧ p1Block.behaviourOf 2 = some .ram)
    ∧ (∃ t, exec (.busWrite 0x0400 0xAB) p1Block = .next t ∧ p1Block.lookup 0x0400 = none)
    ∧ (∃ t, exec (.busWrite 0x0000 0xAB) brokenBlock = .next t ∧ brokenBlock.behaviourOf 0 = none)
    ∧ ∃ t, exec (.busWrite 0x03FF 0xAB) p1Block = .next t
        ∧ t.lastResponse = some (.deviceError (writeProtected false)) :=
  ⟨rfl, rfl, by decide, ⟨_, _, rfl, rfl, rfl, rfl⟩, ⟨_, _, rfl, rfl, rfl⟩, ⟨_, _, rfl, rfl, rfl, by decide⟩,
    ⟨_, _, rfl, rfl, rfl, by decide, by decide⟩, ⟨_, _, rfl, rfl, rfl, by decide, by decide⟩, ⟨_, rfl, by decide⟩,
    ⟨_, rfl, by decide, by decide⟩, ⟨_, rfl, by decide, by decide⟩, ⟨_, rfl, by decide, by decide⟩,
    ⟨_, rfl, by decide⟩, ⟨_, rfl, by decide⟩, _, rfl, rfl⟩

theorem witness_HaltGateRefusesEveryCommand :
    haltedBlock.halted = true ∧ (State.commands { haltedBlock with commands := [0x00000000#32] }) = [0x00000000#32] := by
  decide

theorem witness_HaltedRunIsQuiescent :
    haltedBlock.halted = true
    ∧ 2 ≤ (State.commands { haltedBlock with commands := [0x20123400#32, 0x50000000#32] }).length := by decide

theorem witness_FatalErrorSetsTheHaltLatch :
    ∃ t, step { p1Block with commands := [0x50040000#32] } = .next t ∧ t.halted = true := ⟨_, rfl, rfl⟩

theorem witness_FatalErrorEntrySavesNothing :
    p6Block.halted = false
    ∧ (∃ t r, exec (.busWrite 0x0010 0x99) p6Block = .next t ∧ t.lastResponse = some r ∧ r.fatal = true)
    ∧ p6Block.lookup 0x0010 = some ⟨0x0000, 1, 4⟩
    ∧ ∃ t r, exec (.busRead 0x0100) p6Block = .next t ∧ t.lastResponse = some r ∧ r.fatal = true
        ∧ ∀ e, r ≠ .deviceError e :=
  ⟨rfl, ⟨_, .deviceError (writeProtected true), rfl, rfl, rfl⟩, by decide, _, .unmapped, rfl, rfl, rfl, nofun⟩

theorem witness_ResetLeavesZeroAndNothingMapped : State.reset.slots = [] ∧ State.reset.halted = false := by decide

theorem witness_OnlyResetUndoes :
    (∃ t, step { lastPageBlock with commands := [0x52000001#32] } = .next t ∧ t.nextPage = 256)
    ∧ ∃ t, step { haltedBlock with commands := [0x52000001#32] } = .next t := ⟨⟨_, rfl, by decide⟩, _, rfl⟩

theorem witness_ResetIsSafe : poolWf vectorPool = true := by decide

theorem witness_EveryStepKeepsTheBusInvariants :
    BusInv p1Block ∧ ∃ t, BusInv { p1Block with commands := [0x52000007#32] }
      ∧ step { p1Block with commands := [0x52000007#32] } = .next t :=
  ⟨p1Block_busInv, _,
    ⟨p1Block_busInv.1, p1Block_busInv.2, p1Block_busInv.3, p1Block_busInv.4, p1Block_busInv.5, p1Block_busInv.6,
      p1Block_busInv.7, p1Block_busInv.8, p1Block_busInv.9⟩, rfl⟩

theorem witness_EveryStepKeepsTheDeviceInvariants :
    ∃ t, DeviceInv { p1Block with commands := [0x5101FFAB#32] }
      ∧ step { p1Block with commands := [0x5101FFAB#32] } = .next t := ⟨_, vectorPool_deviceInv rfl rfl, rfl⟩

theorem witness_DecodeOfEncodeIsTheCommand :
    Instr.wf 9 (.busAttach 8) = true ∧ Instr.wf 9 (.setFlag .negative true) = true := by decide

theorem witness_EncodeOfDecodeIsTheWord : decode 9 0x4100000F#32 = .ok (.setFlag .negative true) := by decide

theorem witness_EveryWordMatchesOneRowOrIsIllegal :
    Instr.row .getPc ∈ opcodeTable ∧ (Instr.row .getPc).matches 0x10000000#32 = true
    ∧ decode 9 0x10000000#32 = .ok .getPc := by decide

theorem witness_IllegalWordChangesNothing :
    p1Block.halted = false ∧ (∀ r ∈ opcodeTable, r.matches 0x16000000#32 = false)
    ∧ (Word.op 0x52000009#32 = 0x52#8 ∧ p1Block.pool.length ≤ (Word.b 0x52000009#32).toNat) := by decide

theorem witness_StepRunsTheDecodedCommand :
    State.commands { p1Block with commands := [0x20123400#32] } = [0x20123400#32] ∧ p1Block.halted = false
    ∧ decode p1Block.pool.length 0x20123400#32 = .ok (.setPc 0x1234#16) := by decide

theorem witness_PresentedCommandIsPerformedNext :
    p1Block.halted = false ∧ Instr.wf p1Block.pool.length (.busAttach 8) = true := by decide

theorem witness_OneResponsePerCommand : ∃ t, step { State.reset with commands := [0x10000000#32] } = .next t :=
  ⟨_, rfl⟩

theorem witness_StepStopsOnlyWithoutACommand :
    State.reset.commands = [] ∧ State.commands { State.reset with commands := [0x00000000#32] } ≠ [] := by decide

end Sys2Proof.Tests
end

section
/-! PROOFS of the statements about the state (10_state.md): the bus invariants, the growth of the mapping, the
independence of the status register and the state after reset. -/

namespace Sys2Proof.Machine

/-! ### Pages owned by a table -/

theorem pageSum_concat (slots : List Slot) (sl : Slot) :
    pageSum (slots ++ [sl]) = pageSum slots + sl.pages.toNat := by
  simp [pageSum]

theorem pageSum_take_succ {slots : List Slot} {k : Nat} {sl : Slot} (h : slots[k]? = some sl) :
    pageSum (slots.take (k + 1)) = pageSum (slots.take k) + sl.pages.toNat := by
  rw [List.take_add_one, h, Option.toList_some, pageSum_concat]

theorem pageSum_take_le (slots : List Slot) (k : Nat) : pageSum (slots.take k) ≤ pageSum slots :=
  ((List.take_sublist k slots).map _).sum_le_sum fun _ _ => Nat.zero_le _

/-- A table whose slots each own a page has no more slots than pages. -/
theorem length_le_pageSum {slots : List Slot} (h : ∀ sl ∈ slots, 1 ≤ sl.pages.toNat) :
    slots.length ≤ pageSum slots := by
  have := List.length_le_sum_of_one_le (slots.map fun sl => sl.pages.toNat) (by simpa using h)
  simpa [pageSum] using this

/-- An entry of a table with one more slot at its end is an old entry, or the new one. -/
theorem getElem?_concat_eq_some {slots : List Slot} {new sl : Slot} {k : Nat}
    (h : (slots ++ [new])[k]? = some sl) :
    (k < slots.length ∧ slots[k]? = some sl) ∨ (k = slots.length ∧ sl = new) := by
  obtain hk | rfl | hk := Nat.lt_trichotomy k slots.length
  · exact .inl ⟨hk, by rwa [List.getElem?_append_left hk] at h⟩
  · exact .inr ⟨rfl, by simpa [eq_comm] using h⟩
  · rw [List.getElem?_eq_none (by simp; omega)] at h
    cases h

/-! ### The bus invariants (10_state.md R23) -/

/-- (I2) to (I5) follow from the others: the base of each slot is (I8) the pages before it, and (I7) all pages
together fit the space. -/
theorem BusInv.of_baseSum {s : State}
    (pages_pos : ∀ (k : Nat) (sl : Slot), s.slots[k]? = some sl → 1 ≤ sl.pages.toNat)
    (once_each : ∀ (j k : Nat) (sl sl' : Slot), s.slots[j]? = some sl → s.slots[k]? = some sl' → j ≠ k →
      sl.dev ≠ sl'.dev)
    (next_page : s.nextPage.toNat = pageSum s.slots ∧ s.nextPage.toNat ≤ 256)
    (base_sum : ∀ (k : Nat) (sl : Slot), s.slots[k]? = some sl → sl.base.toNat = 256 * pageSum (s.slots.take k))
    (sized : ∀ (k : Nat) (sl : Slot), s.slots[k]? = some sl →
      ∃ d : Descriptor, s.pool[sl.dev.toNat]? = some d ∧ d.cap.sizePages? = some sl.pages) :
    BusInv s where
  pages_pos k sl h := ⟨pages_pos k sl h, Nat.le_of_lt_succ sl.pages.isLt⟩
  first_base sl h := BitVec.eq_of_toNat_eq (base_sum 0 sl h)
  contiguous k sl next h h' := by
    have hsucc := pageSum_take_succ h
    have hbase := base_sum k sl h
    have hnext := base_sum (k + 1) next h'
    omega
  below_top k sl h := by
    have hsucc := pageSum_take_succ h
    have hall := pageSum_take_le s.slots (k + 1)
    have hbase := base_sum k sl h
    omega
  page_aligned k sl h := by
    apply BitVec.eq_of_toNat_eq
    have hbase := base_sum k sl h
    simp only [BitVec.extractLsb'_toNat, Nat.shiftRight_zero, BitVec.toNat_ofNat]
    omega
  once_each := once_each
  next_page := next_page
  base_sum := base_sum
  sized := sized

/-- A table with no slot meets the invariants when no page is counted. -/
theorem BusInv.of_empty {s : State} (hslots : s.slots = []) (hnext : s.nextPage = 0) : BusInv s :=
  .of_baseSum (by simp [hslots]) (by simp [hslots]) (by simp [hslots, hnext, pageSum]) (by simp [hslots])
    (by simp [hslots])

/-- The invariants speak of the table, its page counter and the pool alone. -/
theorem BusInv.congr {s t : State} (h : BusInv s) (hslots : t.slots = s.slots) (hnext : t.nextPage = s.nextPage)
    (hpool : t.pool = s.pool) : BusInv t where
  pages_pos := hslots ▸ h.pages_pos
  first_base := hslots ▸ h.first_base
  contiguous := hslots ▸ h.contiguous
  below_top := hslots ▸ h.below_top
  page_aligned := hslots ▸ h.page_aligned
  once_each := hslots ▸ h.once_each
  next_page := hslots ▸ hnext ▸ h.next_page
  base_sum := hslots ▸ h.base_sum
  sized := hslots ▸ hpool ▸ h.sized

/-- While a page is free, the next base is exact. -/
theorem State.nextBase_toNat {s : State} (h : s.nextPage.toNat < 256) :
    s.nextBase.toNat = 256 * s.nextPage.toNat := by
  simp only [State.nextBase, Config.pageBytes_eq, BitVec.toNat_ofNat]
  omega

/-- The append that the checks of BUS_ATTACH let through (40_bus.md R80) keeps the invariants. -/
theorem BusInv.appendSlot {s : State} {dev sz : Byte} {d : Descriptor} (h : BusInv s)
    (hdev : s.pool[dev.toNat]? = some d) (hsz : d.cap.sizePages? = some sz) (hpos : sz ≠ 0#8)
    (hnew : ∀ sl ∈ s.slots, sl.dev ≠ dev) (hfit : s.nextPage.toNat + sz.toNat ≤ 256) :
    BusInv (s.appendSlot dev sz) := by
  have hsz_pos : 1 ≤ sz.toNat := by
    have : sz.toNat ≠ 0 := fun h0 => hpos (BitVec.eq_of_toNat_eq h0)
    omega
  obtain ⟨hsum, -⟩ := h.next_page
  refine .of_baseSum ?pages_pos ?once_each ?next_page ?base_sum ?sized
  case pages_pos =>
    intro k sl hk
    obtain ⟨-, hold⟩ | ⟨-, rfl⟩ := getElem?_concat_eq_some hk
    · exact (h.pages_pos k sl hold).1
    · exact hsz_pos
  case once_each =>
    intro j k sl sl' hj hk hne
    obtain ⟨-, hj⟩ | ⟨hjl, rfl⟩ := getElem?_concat_eq_some hj <;>
      obtain ⟨-, hk⟩ | ⟨hkl, rfl⟩ := getElem?_concat_eq_some hk
    · exact h.once_each j k sl sl' hj hk hne
    · exact hnew sl (List.mem_of_getElem? hj)
    · exact (hnew sl' (List.mem_of_getElem? hk)).symm
    · exact absurd (hjl.trans hkl.symm) hne
  case next_page =>
    simp only [State.appendSlot_slots, State.appendSlot_nextPage, pageSum_concat, BitVec.toNat_ofNat]
    omega
  case base_sum =>
    intro k sl hk
    simp only [State.appendSlot_slots]
    obtain ⟨hlt, hold⟩ | ⟨rfl, rfl⟩ := getElem?_concat_eq_some hk
    · rw [List.take_append_of_le_length hlt.le]
      exact h.base_sum k sl hold
    · rw [List.take_left, ← hsum]
      exact State.nextBase_toNat (by omega)
  case sized =>
    intro k sl hk
    obtain ⟨-, hold⟩ | ⟨-, rfl⟩ := getElem?_concat_eq_some hk
    · exact h.sized k sl hold
    · exact ⟨d, hdev, hsz⟩

theorem BusInv.after_effect {s : State} (h : BusInv s) (i : Instr) : BusInv (effect i s) := by
  obtain ⟨hslots, hnext⟩ | ⟨dev, sz, d, -, hdev, hsz, hpos, hnew, hfit, heff⟩ := effect_slots_cases i s
  · exact h.congr hslots hnext (effect_pool i s)
  · rw [heff]
    exact (h.appendSlot hdev hsz hpos hnew hfit).congr rfl rfl rfl

theorem BusInv.after_step {s t : State} (h : BusInv s) (hstep : step s = .next t) : BusInv t := by
  obtain ⟨c, rest, -, ⟨-, rfl⟩ | ⟨-, -, rfl⟩ | ⟨i, -, -, rfl⟩⟩ := step_next hstep
  · exact h.congr rfl rfl rfl
  · exact h.congr rfl rfl rfl
  · exact (h.congr rfl rfl rfl : BusInv { s with commands := rest }).after_effect i

/-- Settles O42: reset maps nothing, and the one change a step can make to the table is the append of BUS_ATTACH,
which keeps (I8) and (I7), from which the geometry of the ranges follows. -/
theorem everyStepKeepsTheBusInvariants : Obligations.EveryStepKeepsTheBusInvariants :=
  ⟨fun _ => .of_empty rfl rfl, fun _ _ h hstep => h.after_step hstep⟩

/-! ### The growth of the mapping (10_state.md R22) -/

theorem BusInv.length_slots_le {s : State} (h : BusInv s) : s.slots.length ≤ 256 := by
  have hpos : ∀ sl ∈ s.slots, 1 ≤ sl.pages.toNat := fun sl hm =>
    let ⟨k, hk⟩ := List.mem_iff_getElem?.1 hm
    (h.pages_pos k sl hk).1
  obtain ⟨hsum, htop⟩ := h.next_page
  have hlen := length_le_pageSum hpos
  omega

/-- Settles O23: a halted block keeps its mapping, a running one keeps it or appends the attached device's slot; each
entry of an invariant table takes at least one of the 256 pages. -/
theorem mappingOnlyGrowsAtItsEnd : Obligations.MappingOnlyGrowsAtItsEnd := by
  refine ⟨fun i s t h => ?_, fun s => BusInv.length_slots_le⟩
  obtain ⟨-, rfl⟩ | ⟨-, rfl⟩ := exec_next.1 h
  · exact .inl rfl
  · obtain ⟨hslots, -⟩ | ⟨dev, sz, d, hi, hdev, hsz, -, -, -, heff⟩ := effect_slots_cases i s
    · exact .inl hslots
    · exact .inr ⟨dev, sz, d, s.nextBase, hi, hdev, hsz, by simp [heff]⟩

/-! ### Commands that do not name the status register (10_state.md R18, 43_flags.md R125) -/

/-- The bus decides and acts without the register file (10_state.md R19). -/
theorem effect_withRegs_of_isBus {i : Instr} (hi : i.isBus = true) (s : State)
    (r : Half × Byte × Byte × Byte × Byte × Byte) : effect i (s.withRegs r) = (effect i s).withRegs r := by
  cases i with
  | busRead addr =>
    have hroute : (s.withRegs r).route addr = s.route addr := rfl
    simp only [effect, State.busRead, hroute]
    cases s.route addr with
    | error _ => rfl
    | ok target =>
      have hstate : (s.withRegs r).deviceState target.dev = s.deviceState target.dev := rfl
      simp only [hstate]
      cases (devRead target.behaviour (s.deviceState target.dev) target.loc).1 <;> rfl
  | busWrite addr data =>
    have hroute : (s.withRegs r).route addr = s.route addr := rfl
    simp only [effect, State.busWrite, hroute]
    cases s.route addr with
    | error _ => rfl
    | ok target =>
      have hstate : (s.withRegs r).deviceState target.dev = s.deviceState target.dev := rfl
      simp only [hstate]
      cases (devWrite target.behaviour (s.deviceState target.dev) target.loc data).1 <;> rfl
  | busAttach dev =>
    have hcheck : (s.withRegs r).attachCheck dev = s.attachCheck dev := rfl
    simp only [effect, State.busAttach, hcheck]
    cases s.attachCheck dev <;> rfl
  | _ => cases hi

/-- Between states that agree on the registers, carrying over all but the status register changes it alone. -/
theorem State.withRegs_of_regPart_eq {s t : State} (h : t.regPart = s.regPart) (q : Byte) :
    t.withRegs (s.pc, s.sp, s.a, s.x, s.y, q) = { t with p := q } := by
  simp only [State.regPart, Prod.mk.injEq] at h
  obtain ⟨hpc, hsp, ha, hx, hy, -⟩ := h
  simp only [State.withRegs, hpc, hsp, ha, hx, hy]

/-- A command that does not name the status register leaves it alone and acts the same whatever it holds. -/
theorem effect_of_not_namesP {i : Instr} (hi : i.namesP = false) (s : State) (q : Byte) :
    (effect i s).p = s.p ∧ effect i { s with p := q } = { effect i s with p := q } := by
  cases hbus : i.isBus with
  | true =>
    obtain ⟨hregs, -, -⟩ := effect_bus hbus s
    refine ⟨congrArg (fun r => r.2.2.2.2.2) hregs, ?_⟩
    calc effect i { s with p := q }
        = effect i (s.withRegs (s.pc, s.sp, s.a, s.x, s.y, q)) := rfl
      _ = (effect i s).withRegs (s.pc, s.sp, s.a, s.x, s.y, q) := effect_withRegs_of_isBus hbus s _
      _ = { effect i s with p := q } := State.withRegs_of_regPart_eq hregs q
  | false =>
    cases i with
    | getP | setP | getFlag | setFlag | toggleFlag => cases hi
    | busRead | busWrite | busAttach => cases hbus
    | _ => exact ⟨rfl, rfl⟩

/-- Settles O12: behind the halt gate, which reads no flag, the effect of a command that does not name `p` neither
writes nor reads it, and GET_P and GET_FLAG only respond. -/
theorem flagsHaveNoSideEffects : Obligations.FlagsHaveNoSideEffects := by
  refine ⟨fun i s q hi => ?_, fun i s f hi => ?_, fun _ => rfl⟩
  · obtain ⟨hp, heff⟩ := effect_of_not_namesP hi s q
    obtain hh | hh := Bool.eq_false_or_eq_true s.halted
    · exact ⟨_, exec_halted hh i, rfl, exec_halted (s := { s with p := q }) hh i⟩
    · exact ⟨_, exec_running hh i, hp, heff ▸ exec_running (s := { s with p := q }) hh i⟩
  · refine ⟨_, exec_eq_next i s, ?_⟩
    obtain rfl | rfl := hi <;> cases s.halted <;> rfl

/-! ### The state after reset (10_state.md R31) -/

theorem State.lookup_of_slots_nil {s : State} (h : s.slots = []) (addr : Half) : s.lookup addr = none :=
  State.lookup_none.2 (by simp [h])

/-- An access to an address that no slot owns is the fatal error UNMAPPED, and nothing else changes (40_bus.md R81,
R82). -/
theorem exec_access_of_unmapped {s : State} {i : Instr} {addr : Half} (hi : Accesses i addr)
    (hh : s.halted = false) (hl : s.lookup addr = none) :
    exec i s = .next { s with halted := true, responses := .unmapped :: s.responses } := by
  obtain ⟨-, heff⟩ | ⟨_, hl', -⟩ | ⟨_, _, _, _, hl', -⟩ := effect_access_cases hi s
  · rw [exec_running hh, heff]
    simp [State.raise, Response.fatal]
  · simp [hl] at hl'
  · simp [hl] at hl'

/-- Settles O39: the fields of the reset state are its definition, and in an empty table no slot owns an address. -/
theorem resetLeavesZeroAndNothingMapped : Obligations.ResetLeavesZeroAndNothingMapped := by
  refine fun pool => ⟨⟨rfl, rfl, rfl, rfl, rfl, rfl, rfl, rfl, rfl, rfl, fun d => List.getElem?_map⟩, ?_⟩
  intro s addr hslots hh
  have hl := State.lookup_of_slots_nil hslots addr
  exact ⟨exec_access_of_unmapped (.inl rfl) hh hl, fun data => exec_access_of_unmapped (.inr ⟨data, rfl⟩) hh hl⟩

end Sys2Proof.Machine
end

section
/-! PROOFS of the statements about the bus decoder and the reference devices (20_memory.md): the unique hit of the
scan, the decoder at page level, Discard and Empty. -/

namespace Sys2Proof.Machine

/-! ### The ranges tile the pages below next_page -/

theorem pageSum_cons (sl : Slot) (slots : List Slot) : pageSum (sl :: slots) = sl.pages.toNat + pageSum slots := by
  simp [pageSum]

theorem pageSum_take_mono (slots : List Slot) {j k : Nat} (h : j ≤ k) :
    pageSum (slots.take j) ≤ pageSum (slots.take k) := by
  have hle := pageSum_take_le (slots.take k) j
  rwa [List.take_take, Nat.min_eq_left h] at hle

/-- Every page below the sum lies among the pages of some slot. -/
theorem exists_slot_of_page_lt_pageSum {slots : List Slot} {q : Nat} (h : q < pageSum slots) :
    ∃ (k : Nat) (sl : Slot), slots[k]? = some sl ∧ pageSum (slots.take k) ≤ q
      ∧ q < pageSum (slots.take k) + sl.pages.toNat := by
  induction slots generalizing q with
  | nil => exact absurd h (Nat.not_lt_zero q)
  | cons first rest ih =>
    rw [pageSum_cons] at h
    by_cases hq : q < first.pages.toNat
    · exact ⟨0, first, rfl, Nat.zero_le q, by simpa [pageSum] using hq⟩
    · obtain ⟨k, sl, hk, hlow, hhigh⟩ := ih (q := q - first.pages.toNat) (by omega)
      refine ⟨k + 1, sl, hk, ?_⟩
      rw [List.take_succ_cons, pageSum_cons]
      omega

/-! ### The byte-level decoder (20_memory.md R51, R52) -/

/-- The range of a slot ends where a later one begins, or before. -/
theorem BusInv.upper_le_base {s : State} (h : BusInv s) {j k : Nat} {sl sl' : Slot} (hj : s.slots[j]? = some sl)
    (hk : s.slots[k]? = some sl') (hjk : j < k) : sl.base.toNat + 256 * sl.pages.toNat ≤ sl'.base.toNat := by
  have hsucc := pageSum_take_succ hj
  have hmono := pageSum_take_mono s.slots (show j + 1 ≤ k from hjk)
  have hbase := h.base_sum j sl hj
  have hbase' := h.base_sum k sl' hk
  omega

/-- At most one slot of the table hits an address. -/
theorem BusInv.hit_unique {s : State} (h : BusInv s) {j k : Nat} {sl sl' : Slot} {addr : Half}
    (hj : s.slots[j]? = some sl) (hk : s.slots[k]? = some sl') (hit : sl.hit addr = true)
    (hit' : sl'.hit addr = true) : j = k := by
  rw [Slot.hit_iff] at hit hit'
  obtain hlt | heq | hlt := Nat.lt_trichotomy j k
  · have := h.upper_le_base hj hk hlt
    omega
  · exact heq
  · have := h.upper_le_base hk hj hlt
    omega

/-- The first hit of the scan is the only one, so a slot of the table is found exactly when it hits. -/
theorem BusInv.lookup_eq_some_iff {s : State} (h : BusInv s) {k : Nat} {sl : Slot} (hk : s.slots[k]? = some sl)
    (addr : Half) : s.lookup addr = some sl ↔ sl.hit addr = true := by
  refine ⟨fun hl => Slot.hit_iff.2 (State.lookup_some hl).2, fun hit => ?_⟩
  cases hl : s.lookup addr with
  | none => exact absurd (Slot.hit_iff.1 hit) (State.lookup_none.1 hl sl (List.mem_of_getElem? hk))
  | some found =>
    obtain ⟨⟨j, hj⟩, hrange⟩ := State.lookup_some hl
    obtain rfl := h.hit_unique hj hk (Slot.hit_iff.2 hrange) hit
    exact hj.symm.trans hk

/-- Settles O15: each base is the pages before it, so the ranges are disjoint and the scan's first hit is the only
one. -/
theorem lookupIsTheUniqueHit : Obligations.LookupIsTheUniqueHit := by
  refine fun s h => ⟨fun k sl addr hk => ?_, fun j k sl sl' addr hj hk hl hl' => ?_, fun addr sl hl => ?_⟩
  · rw [h.lookup_eq_some_iff hk, Slot.hit_iff]
  · exact h.hit_unique hj hk ((h.lookup_eq_some_iff hj addr).1 hl) ((h.lookup_eq_some_iff hk addr).1 hl')
  · exact (State.lookup_some hl).1

/-! ### The page-level decoder (20_memory.md R54) -/

/-- An address is its page and its place in the page. -/
theorem toNat_eq_page_add_low (addr : Half) :
    addr.toNat = 256 * (addr.extractLsb' 8 8).toNat + (addr.extractLsb' 0 8).toNat := by
  simp only [BitVec.extractLsb'_toNat, Nat.shiftRight_eq_div_pow]
  omega

/-- A page aligned base leaves the low byte of the difference alone. -/
theorem sub_of_page_aligned {addr base : Half} (h : base.extractLsb' 0 8 = 0x00#8) :
    addr - base = (addr.extractLsb' 8 8 - base.extractLsb' 8 8) ++ addr.extractLsb' 0 8 := by
  apply BitVec.eq_of_toNat_eq
  have haddr := toNat_eq_page_add_low addr
  have hbase := toNat_eq_page_add_low base
  rw [h] at hbase
  rw [BitVec.toNat_append, ← Nat.shiftLeft_add_eq_or_of_lt (addr.extractLsb' 0 8).isLt, Nat.shiftLeft_eq,
    BitVec.toNat_sub, BitVec.toNat_sub]
  simp only [BitVec.toNat_ofNat] at hbase
  omega

/-- The page of a slot's base is the number of pages before it. -/
theorem BusInv.base_page {s : State} (h : BusInv s) {k : Nat} {sl : Slot} (hk : s.slots[k]? = some sl) :
    (sl.base.extractLsb' 8 8).toNat = pageSum (s.slots.take k) := by
  have hsplit := toNat_eq_page_add_low sl.base
  have hbase := h.base_sum k sl hk
  rw [h.page_aligned k sl hk, BitVec.toNat_ofNat] at hsplit
  omega

/-- A slot is found exactly when the address page is one of its pages, counted from the first page of the table. -/
theorem BusInv.lookup_eq_some_iff_page {s : State} (h : BusInv s) {k : Nat} {sl : Slot} (hk : s.slots[k]? = some sl)
    (addr : Half) : s.lookup addr = some sl ↔
      pageSum (s.slots.take k) ≤ (addr.extractLsb' 8 8).toNat
      ∧ (addr.extractLsb' 8 8).toNat < pageSum (s.slots.take k) + sl.pages.toNat := by
  have hbase := h.base_sum k sl hk
  have haddr := toNat_eq_page_add_low addr
  have hlow := (addr.extractLsb' 0 8).isLt
  rw [h.lookup_eq_some_iff hk, Slot.hit_iff]
  omega

/-- The pages of the table are the pages below next_page. -/
theorem BusInv.lookup_eq_none_iff {s : State} (h : BusInv s) (addr : Half) :
    s.lookup addr = none ↔ s.nextPage.toNat ≤ (addr.extractLsb' 8 8).toNat := by
  obtain ⟨hnext, -⟩ := h.next_page
  rw [hnext]
  constructor
  · intro hl
    by_contra hlt
    obtain ⟨k, sl, hk, hpage⟩ := exists_slot_of_page_lt_pageSum (Nat.lt_of_not_le hlt)
    have := (h.lookup_eq_some_iff_page hk addr).2 hpage
    simp [hl] at this
  · intro hle
    cases hl : s.lookup addr with
    | none => rfl
    | some sl =>
      obtain ⟨⟨k, hk⟩, -⟩ := State.lookup_some hl
      have hpage := (h.lookup_eq_some_iff_page hk addr).1 hl
      have hsucc := pageSum_take_succ hk
      have hall := pageSum_take_le s.slots (k + 1)
      omega

/-- Settles O17: every base is page aligned, and the slots take the pages below next_page without a gap. -/
theorem pageLevelDecoderAgrees : Obligations.PageLevelDecoderAgrees := by
  refine fun s h addr => ⟨fun k sl hk => ?_, fun sl hl => ?_, h.lookup_eq_none_iff addr⟩
  · rw [h.base_page hk]
    exact h.lookup_eq_some_iff_page hk addr
  · obtain ⟨⟨k, hk⟩, -⟩ := State.lookup_some hl
    exact sub_of_page_aligned (h.page_aligned k sl hk)

/-! ### Discard (20_memory.md R48) -/

/-- An access to an address of an Addressable owner goes to that owner. -/
theorem State.route_of_owner {s : State} {addr : Half} {sl : Slot} {b : Behaviour} (hl : s.lookup addr = some sl)
    (hb : s.behaviourOf sl.dev = some b) : s.route addr = .ok ⟨sl.dev, b, sl.local addr⟩ := by
  simp only [State.route, hl, hb]

/-- Storing the state a device has changes nothing; a device id without a state has none to store. -/
theorem State.setDeviceState_deviceState (s : State) (dev : Byte) :
    s.setDeviceState dev (s.deviceState dev) = s := by
  have hset : s.devstate.set dev.toNat (s.devstate.getD dev.toNat .none) = s.devstate := by
    by_cases hlt : dev.toNat < s.devstate.length
    · rw [List.getD_eq_getElem _ _ hlt, List.set_getElem_self]
    · exact List.set_eq_of_length_le (Nat.le_of_not_lt hlt)
  simp only [State.setDeviceState, State.deviceState, deviceId_eq, hset]

/-- An access to an address of Discard answers OK with zero, and nothing else changes. -/
theorem exec_access_of_discard {s : State} {i : Instr} {addr : Half} {sl : Slot} (hi : Accesses i addr)
    (hh : s.halted = false) (hl : s.lookup addr = some sl) (hb : s.behaviourOf sl.dev = some .discard) :
    exec i s = .next { s with responses := .ok 0x0000#16 :: s.responses } := by
  rw [exec_running hh]
  obtain rfl | ⟨data, rfl⟩ := hi
  · simp only [effect, State.busRead, State.route_of_owner hl hb, devRead, State.setDeviceState_deviceState]
    rfl
  · simp only [effect, State.busWrite, State.route_of_owner hl hb, devWrite, State.setDeviceState_deviceState]
    rfl

/-- A sequence whose first command answers goes on from the state it leaves (20_memory.md R58). -/
theorem execAll_cons {i : Instr} {s t : State} (h : exec i s = .next t) (rest : List Instr) :
    execAll (i :: rest) s = execAll rest t := by
  simp only [execAll, h]

/-- Settles O28: an access to Discard only responds, so the read after a write finds the same mapping and the same
owner. -/
theorem discardReadsZeroAndAcceptsWrites : Obligations.DiscardReadsZeroAndAcceptsWrites := by
  refine ⟨⟨rfl, rfl⟩, fun st l v => ⟨rfl, rfl⟩, fun s addr sl hh hl hb => ?_⟩
  refine ⟨exec_access_of_discard (.inl rfl) hh hl hb, fun data => ?_⟩
  have hwrite := exec_access_of_discard (.inr ⟨data, rfl⟩) hh hl hb
  have hread := exec_access_of_discard (s := { s with responses := .ok 0x0000#16 :: s.responses })
    (.inl rfl) hh hl hb
  exact ⟨hwrite, _, (execAll_cons hwrite _).trans (execAll_cons hread []), rfl⟩

/-! ### Empty (20_memory.md R47) -/

/-- BUS_ATTACH of a device without a page count answers NOT_SIZED, and nothing else changes (40_bus.md R80). -/
theorem exec_busAttach_of_not_sized {s : State} {dev : Byte} {d : Descriptor} (hh : s.halted = false)
    (hd : s.pool[dev.toNat]? = some d) (hsz : d.cap.sizePages? = none) :
    exec (.busAttach dev) s = .next { s with responses := .notSized :: s.responses } := by
  have hcheck : s.attachCheck dev = .error .notSized := by
    simp only [State.attachCheck, deviceId_eq, hd, hsz]
  rw [exec_running hh]
  simp [effect, State.busAttach, hcheck, State.raise, Response.fatal]

/-- (I9) at the owner of a mapped address: it is the SizedAddressable device its slot names. -/
theorem BusInv.owner_sized {s : State} (h : BusInv s) {addr : Half} {sl : Slot} (hl : s.lookup addr = some sl) :
    ∃ d : Descriptor, s.pool[sl.dev.toNat]? = some d ∧ d.cap.sizePages? = some sl.pages :=
  let ⟨⟨k, hk⟩, _⟩ := State.lookup_some hl
  h.sized k sl hk

/-- Settles O29: identity alone has no page count, so the attach stops at its capability check, and (I9) no slot
names such a device. -/
theorem emptyCannotBeAttached : Obligations.EmptyCannotBeAttached := by
  refine ⟨⟨rfl, rfl, rfl⟩, fun s dev d hh hd hcap => ?_, fun s addr sl d h hl hd hcap => ?_⟩
  · exact exec_busAttach_of_not_sized hh hd (hcap ▸ rfl)
  · obtain ⟨owner, howner, hsized⟩ := h.owner_sized hl
    obtain rfl : owner = d := Option.some.inj (howner.symm.trans hd)
    simp [hcap, Capability.sizePages?] at hsized

end Sys2Proof.Machine
end

section
/-! PROOFS of the statements about the encoding (30_encoding.md): the rows of the opcode table as the decoder
reads them, the words that spell no command, and the status codes with the commands that raise them. -/

namespace Sys2Proof

/-! ### The rows of the opcode table, field by field (30_encoding.md R61, R63) -/

@[simp] theorem Word.op_and (c m : Word) : (c &&& m).op = c.op &&& m.op := BitVec.extractLsb'_and

@[simp] theorem Word.w_and (c m : Word) : (c &&& m).w = c.w &&& m.w := BitVec.extractLsb'_and

@[simp] theorem Word.b_and (c m : Word) : (c &&& m).b = c.b &&& m.b := BitVec.extractLsb'_and

/-- The opcode of a row, `op` of R63. -/
def OpcodeRow.opcode (r : OpcodeRow) : Byte := r.value.op

/-- A row fixes its opcode in full, and no other bit to one. -/
theorem opcodeTable_fields : ∀ r ∈ opcodeTable, r.mask.op = 0xFF#8 ∧ r.value = Word.ofFields r.opcode 0 0 := by
  decide

/-- A word matches a row when `op` is its opcode and the must-be-zero bits are zero. -/
theorem matches_iff_of_mem_opcodeTable {r : OpcodeRow} {c : Word} (h : r ∈ opcodeTable) :
    r.matches c = true ↔ c.op = r.opcode ∧ c.w &&& r.mask.w = 0 ∧ c.b &&& r.mask.b = 0 := by
  obtain ⟨hmask, hvalue⟩ := opcodeTable_fields r h
  have hop : c.op &&& 0xFF#8 = c.op := BitVec.and_allOnes
  rw [OpcodeRow.matches, decide_eq_true_eq, hvalue, Word.eq_ofFields_iff, Word.op_and, Word.w_and, Word.b_and, hmask,
    hop]

theorem opcodes_nodup : (opcodeTable.map OpcodeRow.opcode).Nodup := by decide

/-- An opcode belongs to one row alone. -/
theorem row_eq_of_opcode_eq {r r' : OpcodeRow} (h : r ∈ opcodeTable) (h' : r' ∈ opcodeTable)
    (hop : r.opcode = r'.opcode) : r = r' :=
  List.inj_on_of_nodup_map opcodes_nodup h h' hop

theorem Instr.row_mem_opcodeTable (i : Instr) : i.row ∈ opcodeTable := by
  cases i <;> simp [opcodeTable, Instr.row]

/-- The must-be-zero bits of format F. -/
theorem upperF_eq_zero_iff (b : Byte) : b.extractLsb' 3 5 = 0 ↔ b &&& 0xF8#8 = 0 := by
  revert b
  decide

/-- The must-be-zero bits of format FV. -/
theorem upperFV_eq_zero_iff (b : Byte) : b.extractLsb' 4 4 = 0 ↔ b &&& 0xF0#8 = 0 := by
  revert b
  decide

/-! ### The decoder reads a word by the row of its opcode -/

/-- A command is read by its row: the word has the row's opcode, and the reading is the command where the word
matches the row and the rejection of a must-be-zero bit where it does not (30_encoding.md R64 (b)). -/
def ReadByRow (c : Word) (d : Except Reject Instr) : Prop :=
  ∃ i : Instr, c.op = i.row.opcode ∧ d = if i.row.matches c then .ok i else .error .mustBeZero

/-- A format reads by the row when it checks exactly the bits of `w` and `b` that the row's mask fixes. -/
theorem readByRow_of_row_eq {i : Instr} {c : Word} {k : Byte} {mw : Half} {mb : Byte} {Z : Prop} [Decidable Z]
    (hop : c.op = k) (hrow : i.row = ⟨Word.ofFields 0xFF mw mb, Word.ofFields k 0 0⟩)
    (hZ : Z ↔ c.w &&& mw = 0 ∧ c.b &&& mb = 0) : ReadByRow c (if Z then .ok i else .error .mustBeZero) := by
  have hopcode : c.op = i.row.opcode := by simp [OpcodeRow.opcode, hrow, hop]
  have hmatch : Z ↔ i.row.matches c = true := by
    rw [matches_iff_of_mem_opcodeTable i.row_mem_opcodeTable, and_iff_right hopcode, hrow, Word.w_ofFields,
      Word.b_ofFields, hZ]
  exact ⟨i, hopcode, if_congr hmatch rfl rfl⟩

/-! The formats of R61: the row of each opcode has the mask of the must-be-zero bits its format checks. -/

section Formats

variable {c : Word} {k : Byte} (hop : c.op = k)

include hop

theorem decodeN_readByRow {i : Instr} (hrow : i.row = ⟨0xFFFFFFFF, Word.ofFields k 0 0⟩) :
    ReadByRow c (decodeN c i) :=
  readByRow_of_row_eq (mw := .allOnes 16) (mb := .allOnes 8) hop hrow (by simp only [BitVec.and_allOnes])

theorem decodeW_readByRow {i : Half → Instr} (hrow : ∀ v, (i v).row = ⟨0xFF0000FF, Word.ofFields k 0 0⟩) :
    ReadByRow c (decodeW c i) :=
  readByRow_of_row_eq (mw := 0#16) (mb := .allOnes 8) hop (hrow c.w)
    (by simp only [BitVec.and_zero, BitVec.and_allOnes, BitVec.ofNat_eq_ofNat, true_and])

theorem decodeB_readByRow {i : Byte → Instr} (hrow : ∀ v, (i v).row = ⟨0xFFFFFF00, Word.ofFields k 0 0⟩) :
    ReadByRow c (decodeB c i) :=
  readByRow_of_row_eq (mw := .allOnes 16) (mb := 0#8) hop (hrow c.b)
    (by simp only [BitVec.and_zero, BitVec.and_allOnes, BitVec.ofNat_eq_ofNat, and_true])

theorem decodeWB_readByRow {i : Half → Byte → Instr}
    (hrow : ∀ v d, (i v d).row = ⟨0xFF000000, Word.ofFields k 0 0⟩) : ReadByRow c (decodeWB c i) :=
  readByRow_of_row_eq (mw := 0) (mb := 0) (Z := True) hop (hrow c.w c.b) (by simp)

theorem decodeF_readByRow {i : Flag → Instr} (hrow : ∀ f, (i f).row = ⟨0xFFFFFFF8, Word.ofFields k 0 0⟩) :
    ReadByRow c (decodeF c i) :=
  readByRow_of_row_eq (mw := .allOnes 16) (mb := 0xF8#8) hop (hrow _)
    (by simp only [BitVec.and_allOnes, Word.upperF_eq, upperF_eq_zero_iff])

theorem decodeFV_readByRow {i : Flag → Bool → Instr}
    (hrow : ∀ f v, (i f v).row = ⟨0xFFFFFFF0, Word.ofFields k 0 0⟩) : ReadByRow c (decodeFV c i) :=
  readByRow_of_row_eq (mw := .allOnes 16) (mb := 0xF0#8) hop (hrow _ _)
    (by simp only [BitVec.and_allOnes, Word.upperFV_eq, upperFV_eq_zero_iff])

end Formats

theorem opcodes_eq : opcodeTable.map OpcodeRow.opcode =
    [0x10, 0x11, 0x12, 0x13, 0x14, 0x15, 0x20, 0x21, 0x22, 0x23, 0x24, 0x25, 0x30, 0x31, 0x32, 0x33,
      0x40, 0x41, 0x42, 0x50, 0x51, 0x52] := by decide

/-- What the decoder does with a word, before it looks at the device id. -/
theorem decodeRow_cases (c : Word) :
    ReadByRow c (decodeRow c)
    ∨ (∀ r ∈ opcodeTable, c.op ≠ r.opcode) ∧ decodeRow c = .error .unassignedOpcode := by
  delta decodeRow
  split
  case h_1 hop | h_2 hop | h_3 hop | h_4 hop | h_5 hop | h_6 hop => exact .inl (decodeN_readByRow hop rfl)
  case h_7 hop | h_13 hop | h_14 hop | h_15 hop | h_16 hop | h_20 hop =>
    exact .inl (decodeW_readByRow hop fun _ => rfl)
  case h_8 hop | h_9 hop | h_10 hop | h_11 hop | h_12 hop | h_22 hop =>
    exact .inl (decodeB_readByRow hop fun _ => rfl)
  case h_17 hop | h_19 hop => exact .inl (decodeF_readByRow hop fun _ => rfl)
  case h_18 hop => exact .inl (decodeFV_readByRow hop fun _ _ => rfl)
  case h_21 hop => exact .inl (decodeWB_readByRow hop fun _ _ => rfl)
  case h_23 =>
    have hnot : c.op ∉ opcodeTable.map OpcodeRow.opcode := by
      simp only [opcodes_eq, List.mem_cons, List.not_mem_nil, or_false, not_or]
      and_intros <;> assumption
    exact .inr ⟨fun r hr hop => hnot (List.mem_map.2 ⟨r, hr, hop.symm⟩), rfl⟩

/-- A word that a row reads matches the command's row. -/
theorem row_matches_of_decodeRow {c : Word} {i : Instr} (h : decodeRow c = .ok i) : i.row.matches c = true := by
  obtain ⟨j, -, hread⟩ | ⟨-, hreject⟩ := decodeRow_cases c
  · by_cases hm : j.row.matches c = true
    · rw [hread, if_pos hm] at h
      exact Except.ok.inj h ▸ hm
    · rw [hread, if_neg hm] at h
      cases h
  · rw [hreject] at h
    cases h

/-- A word that matches a row is read by it. -/
theorem decodeRow_of_matches {c : Word} {r : OpcodeRow} (hr : r ∈ opcodeTable) (hm : r.matches c = true) :
    ∃ i, decodeRow c = .ok i := by
  obtain ⟨hop, -, -⟩ := (matches_iff_of_mem_opcodeTable hr).1 hm
  obtain ⟨i, hopi, hread⟩ | ⟨hnone, -⟩ := decodeRow_cases c
  · have hrow : i.row = r := row_eq_of_opcode_eq i.row_mem_opcodeTable hr (hopi.symm.trans hop)
    exact ⟨i, by rw [hread, hrow, if_pos hm]⟩
  · exact absurd hop (hnone r hr)

theorem opcode_busAttach (dev : Byte) : (Instr.busAttach dev).row.opcode = 0x52#8 := by
  simp [OpcodeRow.opcode, Instr.row, Word.op]

/-- The one row whose command a pool can lack is BUS_ATTACH, whose device id is `b`. -/
theorem wf_eq_false_iff_of_decodeRow {ndev : Nat} {c : Word} {i : Instr} (h : decodeRow c = .ok i) :
    i.wf ndev = false ↔ c.op = 0x52#8 ∧ ndev ≤ c.b.toNat := by
  have hattach (hop : c.op = 0x52#8) : i = .busAttach c.b := by
    rw [decodeRow_busAttach hop, decodeB_ok] at h
    exact h.1.symm
  constructor
  · intro hwf
    cases i with
    | busAttach dev =>
      obtain ⟨hop, -, -⟩ :=
        (matches_iff_of_mem_opcodeTable (Instr.row_mem_opcodeTable _)).1 (row_matches_of_decodeRow h)
      rw [opcode_busAttach] at hop
      obtain rfl : dev = c.b := Instr.busAttach.inj (hattach hop)
      exact ⟨hop, by simpa [Instr.wf] using hwf⟩
    | _ => cases hwf
  · rintro ⟨hop, hdev⟩
    simp [hattach hop, Instr.wf, hdev]

/-- What the decoder rejects: a word of no row, and a BUS_ATTACH of a device outside the pool (30_encoding.md R64). -/
theorem decode_error_iff {ndev : Nat} {c : Word} :
    (∃ e, decode ndev c = .error e) ↔
      (∀ r ∈ opcodeTable, r.matches c = false) ∨ c.op = 0x52#8 ∧ ndev ≤ c.b.toNat := by
  cases hrow : decodeRow c with
  | error e =>
    have hnone : ∀ r ∈ opcodeTable, r.matches c = false := fun r hr => by
      by_contra hm
      obtain ⟨i, hi⟩ := decodeRow_of_matches hr (Bool.eq_true_of_not_eq_false hm)
      cases hrow.symm.trans hi
    exact iff_of_true ⟨e, by simp only [decode, hrow]⟩ (.inl hnone)
  | ok i =>
    have hsome : ¬ ∀ r ∈ opcodeTable, r.matches c = false := fun hnone =>
      Bool.false_ne_true ((hnone i.row i.row_mem_opcodeTable).symm.trans (row_matches_of_decodeRow hrow))
    rw [or_iff_right hsome, ← wf_eq_false_iff_of_decodeRow hrow]
    cases hwf : i.wf ndev <;> simp [decode, hrow, hwf]

/-- Settles O46: the opcodes of the rows differ and every row fixes its opcode, so rows are disjoint; the decoder
reads a word by the row of its opcode and then asks for the device. -/
theorem everyWordMatchesOneRowOrIsIllegal : Obligations.EveryWordMatchesOneRowOrIsIllegal := by
  refine ⟨fun c r r' hr hr' hm hm' => ?_, fun ndev c i h => ?_, fun _ _ => decode_error_iff⟩
  · obtain ⟨hop, -, -⟩ := (matches_iff_of_mem_opcodeTable hr).1 hm
    obtain ⟨hop', -, -⟩ := (matches_iff_of_mem_opcodeTable hr').1 hm'
    exact row_eq_of_opcode_eq hr hr' (hop.symm.trans hop')
  · obtain ⟨hrow, -⟩ := decode_ok.1 h
    exact ⟨i.row_mem_opcodeTable, row_matches_of_decodeRow hrow⟩

end Sys2Proof

namespace Sys2Proof.Machine

/-! ### Words that spell no command (30_encoding.md R64, 60_exceptions.md R142) -/

/-- The step of a running block on a word that the decoder rejects. -/
theorem step_of_reject {s : State} {c : Word} {rest : List Word} {e : Reject} (hc : s.commands = c :: rest)
    (hh : s.halted = false) (hd : decode s.pool.length c = .error e) :
    step s = .next { s with commands := rest, responses := .illegal :: s.responses } := by
  simp [step, State.takeCommand, hc, hh, hd, State.raise, Response.fatal]

/-- Settles O47: such a word is one that the decoder rejects. -/
theorem illegalWordChangesNothing : Obligations.IllegalWordChangesNothing := by
  refine ⟨rfl, fun s c rest hc hh hillegal => ?_⟩
  obtain ⟨e, hd⟩ := decode_error_iff.2 hillegal
  exact step_of_reject hc hh hd

/-! ### The status codes (30_encoding.md R67) -/

/-- Who raises an outcome on a running block, by R67: the accesses, the allocator, and an attach outside the pool. -/
def RaisedBy (i : Instr) (s : State) : Response → Prop
  | .ok _ => True
  | .deviceError _ | .unmapped | .notAddressable => ∃ addr, Accesses i addr
  | .allocZeroPages | .allocAlreadyAttached | .allocExhausted | .notSized => ∃ dev, i = .busAttach dev
  | .illegal => ∃ dev, i = .busAttach dev ∧ s.pool.length ≤ dev.toNat
  | .halted => False

theorem State.lastResponse_of_responses {s : State} {r : Response} {rest : List Response}
    (h : s.responses = r :: rest) : s.lastResponse = some r := by
  simp [State.lastResponse, h]

theorem access_raises {i : Instr} {addr : Half} (hi : Accesses i addr) (s : State) :
    ∃ r, (effect i s).lastResponse = some r ∧ RaisedBy i s r := by
  obtain ⟨-, heff⟩ | ⟨_, -, -, heff⟩ | ⟨_, _, _, r, -, -, heff, hr, -⟩ := effect_access_cases hi s
  · exact ⟨.unmapped, heff ▸ rfl, addr, hi⟩
  · exact ⟨.notAddressable, heff ▸ rfl, addr, hi⟩
  · refine ⟨r, heff ▸ rfl, ?_⟩
    obtain ⟨v, rfl⟩ | ⟨e, rfl⟩ := hr
    · exact trivial
    · exact ⟨addr, hi⟩

theorem attach_raises (dev : Byte) (s : State) :
    ∃ r, (effect (.busAttach dev) s).lastResponse = some r ∧ RaisedBy (.busAttach dev) s r := by
  obtain ⟨hdev, heff⟩ | ⟨d, -, ⟨-, heff⟩ | ⟨sz, -, ⟨-, heff⟩ | ⟨-, -, heff⟩ | ⟨-, -, -, heff⟩ | ⟨-, -, -, heff⟩⟩⟩ :=
    s.busAttach_cases dev
  · exact ⟨.illegal, congrArg _ heff, dev, rfl, List.getElem?_eq_none_iff.1 hdev⟩
  · exact ⟨.notSized, congrArg _ heff, dev, rfl⟩
  · exact ⟨.allocZeroPages, congrArg _ heff, dev, rfl⟩
  · exact ⟨.allocAlreadyAttached, congrArg _ heff, dev, rfl⟩
  · exact ⟨.allocExhausted, congrArg _ heff, dev, rfl⟩
  · exact ⟨.ok s.nextBase, congrArg _ heff, trivial⟩

/-- Every command that passes the halt gate answers an outcome that R67 lets it raise. -/
theorem effect_raises (i : Instr) (s : State) : ∃ r, (effect i s).lastResponse = some r ∧ RaisedBy i s r := by
  cases hi : i.isBus with
  | true =>
    obtain ⟨addr, ha⟩ | ⟨dev, rfl⟩ := isBus_cases hi
    · exact access_raises ha s
    · exact attach_raises dev s
  | false =>
    obtain ⟨-, -, -, v, hv⟩ := effect_register hi s
    exact ⟨.ok v, State.lastResponse_of_responses hv, trivial⟩

/-- On a running block the latch becomes the fatality of the response (60_exceptions.md R139). -/
theorem effect_halted_eq_fatal {i : Instr} {s : State} {r : Response} (hh : s.halted = false)
    (h : (effect i s).lastResponse = some r) : (effect i s).halted = r.fatal := by
  obtain ⟨r', hr', hlatch⟩ := effect_responds i s
  obtain rfl : r' = r := Option.some.inj ((State.lastResponse_of_responses hr').symm.trans h)
  rw [hlatch, hh, Bool.false_or]

theorem Response.status_le (r : Response) : r.status.toNat ≤ 9 := by
  cases r <;> simp [Response.status]

/-- Settles O32: the table is the definition of status and fatality, and each outcome of a command is one that R67
lets it raise. -/
theorem statusCodesAndTheirCommands : Obligations.StatusCodesAndTheirCommands := by
  refine ⟨fun d e => ⟨rfl, rfl⟩, Response.status_le, fun i s t r hh hexec hr => ?_⟩
  obtain ⟨hhalted, -⟩ | ⟨-, rfl⟩ := exec_next.1 hexec
  · simp [hh] at hhalted
  obtain ⟨r', hr', hraised⟩ := effect_raises i s
  obtain rfl : r' = r := Option.some.inj (hr'.symm.trans hr)
  have haccess : (∃ addr, Accesses i addr) →
      (∃ addr, i = .busRead addr) ∨ ∃ addr data, i = .busWrite addr data := exists_or.1
  refine ⟨effect_halted_eq_fatal hh hr, ?_, ?_, ?_, ?_⟩
  · rintro (rfl | rfl | ⟨e, rfl⟩) <;> exact haccess hraised
  · rintro (rfl | rfl | rfl | rfl) <;> exact hraised
  · rintro rfl
    exact hraised
  · rintro rfl
    exact hraised

end Sys2Proof.Machine
end

section
/-! PROOFS of the statements about the bus commands (40_bus.md): the words that spell them, the checks of the
allocator in order, what an access does to its owner, and the ranges that attaches leave behind. -/

namespace Sys2Proof

/-! ### The word of a command (30_encoding.md R61, R63) -/

/-- A row reads a command from no word but the command's own. -/
theorem eq_encode_of_decodeRow {c : Word} {i : Instr} (h : decodeRow c = .ok i) : c = encode i := by
  delta decodeRow at h
  split at h
  case h_1 hop | h_2 hop | h_3 hop | h_4 hop | h_5 hop | h_6 hop =>
    obtain ⟨rfl, hw, hb⟩ := decodeN_ok.1 h
    exact (Word.eq_ofFields_iff ..).2 ⟨hop, hw, hb⟩
  case h_7 hop | h_13 hop | h_14 hop | h_15 hop | h_16 hop | h_20 hop =>
    obtain ⟨rfl, hb⟩ := decodeW_ok.1 h
    exact (Word.eq_ofFields_iff ..).2 ⟨hop, rfl, hb⟩
  case h_8 hop | h_9 hop | h_10 hop | h_11 hop | h_12 hop | h_22 hop =>
    obtain ⟨rfl, hw⟩ := decodeB_ok.1 h
    exact (Word.eq_ofFields_iff ..).2 ⟨hop, hw, rfl⟩
  case h_17 hop | h_19 hop =>
    obtain ⟨f, rfl, hw, hb⟩ := decodeF_ok.1 h
    exact (Word.eq_ofFields_iff ..).2 ⟨hop, hw, hb⟩
  case h_18 hop =>
    obtain ⟨f, v, rfl, hw, hb⟩ := decodeFV_ok.1 h
    exact (Word.eq_ofFields_iff ..).2 ⟨hop, hw, hb⟩
  case h_21 hop =>
    obtain rfl := decodeWB_ok.1 h
    exact (Word.eq_ofFields_iff ..).2 ⟨hop, rfl, rfl⟩
  case h_23 => cases h

/-- A command that its row reads back is decoded from its own word alone, over the pools that have its device. -/
theorem decode_eq_ok_iff_eq_encode {i : Instr} (hrow : decodeRow (encode i) = .ok i) {ndev : Nat} {c : Word} :
    decode ndev c = .ok i ↔ c = encode i ∧ i.wf ndev = true := by
  rw [decode_ok]
  refine and_congr_left fun _ => ⟨eq_encode_of_decodeRow, ?_⟩
  rintro rfl
  exact hrow

/-! ### Capabilities (20_memory.md R42) -/

/-- A SizedAddressable device is Addressable. -/
theorem Capability.behaviour?_of_sizePages? {cap : Capability} {sz : Byte} (h : cap.sizePages? = some sz) :
    ∃ b, cap.behaviour? = some b := by
  cases cap with
  | identityOnly => cases h
  | addressable b => cases h
  | sizedAddressable b n => exact ⟨b, rfl⟩

end Sys2Proof

namespace Sys2Proof.Machine

theorem spelledBy_encode {i : Instr} (hrow : decodeRow (encode i) = .ok i) (hwf : ∀ ndev, i.wf ndev = true) :
    SpelledBy i (encode i) :=
  fun ndev _ => (decode_eq_ok_iff_eq_encode hrow).trans (and_iff_left (hwf ndev))

/-! ### An error that is not fatal -/

theorem State.raise_of_not_fatal (s : State) {r : Response} (hr : r.fatal = false) :
    s.raise r = { s with responses := r :: s.responses } := by
  simp [State.raise, hr]

theorem sameBlock_raise (s : State) {r : Response} (hr : r.fatal = false) : SameBlock s (s.raise r) :=
  ⟨rfl, rfl, by simp [hr]⟩

/-! ### The checks of BUS_ATTACH (40_bus.md R80) -/

/-- The checks that remain for a device of the pool with a page count, in their order. -/
theorem State.attachCheck_of_sized {s : State} {dev sz : Byte} {d : Descriptor} (hd : s.pool[dev.toNat]? = some d)
    (hsz : d.cap.sizePages? = some sz) :
    s.attachCheck dev =
      if sz = 0x00#8 then .error .allocZeroPages
      else if s.isAttached dev then .error .allocAlreadyAttached
      else if s.nextPage.toNat + sz.toNat > 256 then .error .allocExhausted
      else .ok sz := by
  simp only [State.attachCheck, deviceId_eq, hd, hsz]
  rfl

theorem State.isAttached_eq_false_iff {s : State} {dev : Byte} :
    s.isAttached dev = false ↔ ∀ sl ∈ s.slots, sl.dev ≠ dev := by
  simp [State.isAttached]

/-- An attach that a check turns away answers the error of the check, and nothing else changes. -/
theorem exec_busAttach_of_check_error {s : State} {dev : Byte} {r : Response} (hh : s.halted = false)
    (hcheck : s.attachCheck dev = .error r) (hr : r.fatal = false) :
    exec (.busAttach dev) s = .next { s with responses := r :: s.responses } := by
  have heff : effect (.busAttach dev) s = s.raise r := by simp only [effect, State.busAttach, hcheck]
  rw [exec_running hh, heff, State.raise_of_not_fatal s hr]

/-- An attach that no check turns away appends the device at the next free page. -/
theorem exec_busAttach_of_check_ok {s : State} {dev sz : Byte} (hh : s.halted = false)
    (hcheck : s.attachCheck dev = .ok sz) :
    exec (.busAttach dev) s = .next ((s.appendSlot dev sz).respond (.ok s.nextBase)) := by
  have heff : effect (.busAttach dev) s = (s.appendSlot dev sz).respond (.ok s.nextBase) := by
    simp only [effect, State.busAttach, hcheck]
  rw [exec_running hh, heff]

/-- Settles O5: each clause fixes what the chain of checks answers, and the answer of the checks fixes the attach. -/
theorem attachFollowsItsChecks : Obligations.AttachFollowsItsChecks := by
  refine ⟨fun ndev c dev => ?_, fun s dev hh => exec_halted hh _, fun s dev hh => ⟨fun hdev => ?_, fun d hd =>
    ⟨exec_busAttach_of_not_sized hh hd, fun sz hsz => ?_⟩⟩⟩
  · rw [decode_eq_ok_iff_eq_encode (Laws.EncodedInRow.busAttach dev), Instr.wf, decide_eq_true_eq]
    rfl
  · have hcheck : s.attachCheck dev = .error .illegal := by
      simp only [State.attachCheck, deviceId_eq, List.getElem?_eq_none hdev]
    exact exec_busAttach_of_check_error hh hcheck rfl
  · have hcheck := State.attachCheck_of_sized hd hsz
    refine ⟨fun hz => ?_, fun hz ha => ?_, fun hz ha hx => ?_, fun hz ha hx => ?_⟩
    · rw [if_pos hz] at hcheck
      exact exec_busAttach_of_check_error hh hcheck rfl
    · rw [if_neg hz, if_pos (State.isAttached_iff.2 ha)] at hcheck
      exact exec_busAttach_of_check_error hh hcheck rfl
    all_goals rw [if_neg hz, State.isAttached_eq_false_iff.2 ha, if_neg Bool.false_ne_true] at hcheck
    · rw [if_pos hx] at hcheck
      exact exec_busAttach_of_check_error hh hcheck rfl
    · rw [if_neg (Nat.not_lt.2 hx)] at hcheck
      exact exec_busAttach_of_check_ok hh hcheck

/-- Settles O25: a page count that does not fit fails the last check, if no earlier one fails. -/
theorem exhaustedAttachChangesNothing : Obligations.ExhaustedAttachChangesNothing := by
  intro s dev d sz hh hd hsz hx
  have hcheck := State.attachCheck_of_sized hd hsz
  rw [if_pos hx] at hcheck
  split_ifs at hcheck
  · exact ⟨_, exec_busAttach_of_check_error hh hcheck rfl, .inl rfl⟩
  · exact ⟨_, exec_busAttach_of_check_error hh hcheck rfl, .inr (.inl rfl)⟩
  · exact ⟨_, exec_busAttach_of_check_error hh hcheck rfl, .inr (.inr rfl)⟩

/-! ### The ranges that attaches leave behind (40_bus.md R83) -/

/-- The invariants of the mapping hold after every run from reset, over every pool. -/
theorem busInv_of_run {pool : List Descriptor} {commands : List Word} {n : Nat} {t : State}
    (h : Host.Core.run Sys2Proof.core n { State.resetWith pool with commands := commands } = .next t) : BusInv t :=
  run_keeps (fun _ _ => BusInv.after_step) n _ t (.of_empty rfl rfl) h

/-- Settles O24: the geometry is that of the invariants, and an attach that answers an error only raises it. -/
theorem attachedRangesTileTheSpace : Obligations.AttachedRangesTileTheSpace := by
  refine ⟨fun pool commands n t hrun => ?_, fun s t dev r hexec hr herr => ?_⟩
  · have h := busInv_of_run hrun
    exact ⟨h.base_sum, h.contiguous, fun j k sl sl' hjk hj hk => h.upper_le_base hj hk hjk⟩
  · obtain ⟨-, rfl⟩ | ⟨-, rfl⟩ := exec_next.1 hexec
    · exact sameBlock_raise s rfl
    · obtain ⟨r', -, hfatal, heff⟩ | ⟨_, _, _, _, _, _, _, heff⟩ := effect_attach_cases dev s
      · exact heff ▸ sameBlock_raise s hfatal
      · rw [heff, State.lastResponse_respond, Option.some.injEq] at hr
        exact absurd hr.symm (herr _)

/-! ### The answer to an access -/

/-- The response to a completed device read (40_bus.md R81). -/
def Response.ofRead : ReadReply → Response
  | .byte v => .ok (zext16 v)
  | .error e => .deviceError e

/-- The response to a completed device write (40_bus.md R82). -/
def Response.ofWrite : WriteReply → Response
  | .done => .ok noValue
  | .error e => .deviceError e

theorem State.answerRead_eq_raise (s : State) (reply : ReadReply) :
    s.answerRead reply = s.raise (.ofRead reply) := by
  cases reply with
  | byte v => exact (State.raise_of_not_fatal s rfl).symm
  | error e => rfl

theorem State.answerWrite_eq_raise (s : State) (reply : WriteReply) :
    s.answerWrite reply = s.raise (.ofWrite reply) := by
  cases reply with
  | done => exact (State.raise_of_not_fatal s rfl).symm
  | error e => rfl

/-- What a running block becomes when a device's next state is stored and its answer given. -/
theorem State.setDeviceState_raise {s : State} (hh : s.halted = false) (dev : Byte) (st : DevState) (r : Response) :
    (s.setDeviceState dev st).raise r =
      { s with devstate := s.devstate.set dev.toNat st, halted := r.fatal, responses := r :: s.responses } := by
  simp [State.raise, State.setDeviceState, hh]

/-- A read that the bus routes is one read of the target. -/
theorem exec_busRead_of_route {s : State} {addr : Half} {tg : Target} (hh : s.halted = false)
    (hroute : s.route addr = .ok tg) :
    exec (.busRead addr) s = .next
      ((s.setDeviceState tg.dev (devRead tg.behaviour (s.deviceState tg.dev) tg.loc).2).raise
        (.ofRead (devRead tg.behaviour (s.deviceState tg.dev) tg.loc).1)) := by
  rw [exec_running hh]
  simp only [effect, State.busRead, hroute, State.answerRead_eq_raise]

/-- A write that the bus routes is one write of the target. -/
theorem exec_busWrite_of_route {s : State} {addr : Half} {tg : Target} (data : Byte) (hh : s.halted = false)
    (hroute : s.route addr = .ok tg) :
    exec (.busWrite addr data) s = .next
      ((s.setDeviceState tg.dev (devWrite tg.behaviour (s.deviceState tg.dev) tg.loc data).2).raise
        (.ofWrite (devWrite tg.behaviour (s.deviceState tg.dev) tg.loc data).1)) := by
  rw [exec_running hh]
  simp only [effect, State.busWrite, hroute, State.answerWrite_eq_raise]

/-- An access whose owner has no operations is the fatal error NOT_ADDRESSABLE, and nothing else changes (40_bus.md
R81, R82). -/
theorem exec_access_of_not_addressable {s : State} {i : Instr} {addr : Half} {sl : Slot} (hi : Accesses i addr)
    (hh : s.halted = false) (hl : s.lookup addr = some sl) (hb : s.behaviourOf sl.dev = none) :
    exec i s = .next { s with halted := true, responses := .notAddressable :: s.responses } := by
  obtain ⟨hl', -⟩ | ⟨_, -, -, heff⟩ | ⟨_, _, _, _, hl', hb', -⟩ := effect_access_cases hi s
  · cases hl.symm.trans hl'
  · rw [exec_running hh, heff]
    simp [State.raise, Response.fatal]
  · cases hl.symm.trans hl'
    cases hb.symm.trans hb'

/-! ### The accesses, outcome by outcome (40_bus.md R81, R82) -/

/-- Settles O6: the lookup and the probe decide the route, and a routed read stores and answers what the owner's read
leaves. -/
theorem readForwardsToTheOwner : Obligations.ReadForwardsToTheOwner := by
  refine ⟨fun addr => spelledBy_encode (Laws.EncodedInRow.busRead addr) fun _ => rfl, fun s addr hh => exec_halted hh _,
    fun s addr hh => ⟨exec_access_of_unmapped (.inl rfl) hh, fun sl hl =>
      ⟨exec_access_of_not_addressable (.inl rfl) hh hl, fun b hb => ?_⟩⟩⟩
  rw [exec_busRead_of_route hh (State.route_of_owner hl hb), State.setDeviceState_raise hh, Slot.local]
  obtain ⟨v | e, st⟩ := devRead b (s.deviceState sl.dev) (addr - sl.base)
  · simp [Response.ofRead, Response.fatal, zext16, hh]
  · rfl

/-- Settles O7: the lookup and the probe decide the route, and a routed write stores and answers what the owner's
write leaves. -/
theorem writeForwardsToTheOwner : Obligations.WriteForwardsToTheOwner := by
  refine ⟨fun addr data => spelledBy_encode (Laws.EncodedInRow.busWrite addr data) fun _ => rfl,
    fun s addr data hh => exec_halted hh _,
    fun s addr data hh => ⟨exec_access_of_unmapped (.inr ⟨data, rfl⟩) hh, fun sl hl =>
      ⟨exec_access_of_not_addressable (.inr ⟨data, rfl⟩) hh hl, fun b hb => ?_⟩⟩⟩
  rw [exec_busWrite_of_route data hh (State.route_of_owner hl hb), State.setDeviceState_raise hh, Slot.local]
  obtain ⟨_ | e, st⟩ := devWrite b (s.deviceState sl.dev) (addr - sl.base) data
  · simp [Response.ofWrite, Response.fatal, noValue, hh]
  · rfl

/-- Settles O20: the table takes the pages below next_page, so the addresses of the pages above it have no owner. -/
theorem unmappedAccessIsFatal : Obligations.UnmappedAccessIsFatal := by
  refine fun s addr h hh => ⟨State.lookup_none.symm.trans (h.lookup_eq_none_iff addr), fun hpage => ?_⟩
  have hl := (h.lookup_eq_none_iff addr).2 hpage
  exact ⟨rfl, exec_access_of_unmapped (.inl rfl) hh hl, fun data => exec_access_of_unmapped (.inr ⟨data, rfl⟩) hh hl⟩

/-! ### One operation of the owner (40_bus.md R84) -/

/-- (I9) the device of a slot is Addressable and has a state. -/
theorem BusInv.slot_device {s : State} (h : BusInv s) (hdev : DeviceInv s) {k : Nat} {sl : Slot}
    (hk : s.slots[k]? = some sl) :
    ∃ b st, s.behaviourOf sl.dev = some b ∧ s.devstate[sl.dev.toNat]? = some st ∧ s.deviceState sl.dev = st := by
  obtain ⟨d, hd, hsz⟩ := h.sized k sl hk
  obtain ⟨b, hb⟩ := Capability.behaviour?_of_sizePages? hsz
  obtain ⟨hlt, -⟩ := List.getElem?_eq_some_iff.1 hd
  have hst := List.getElem?_eq_getElem (hdev.one_state_each ▸ hlt : sl.dev.toNat < s.devstate.length)
  refine ⟨b, _, ?_, hst, ?_⟩
  · rw [State.behaviourOf_eq, hd, Option.bind_some, hb]
  · rw [State.deviceState, deviceId_eq, List.getD_eq_getElem?_getD, hst, Option.getD_some]

/-- Storing a device's next state and answering replaces that device's state and no other. -/
theorem setDeviceState_raise_devstate {s : State} {dev : Byte} {st : DevState} (hst : s.devstate[dev.toNat]? = some st)
    (st' : DevState) (r : Response) :
    ((s.setDeviceState dev st').raise r).devstate[dev.toNat]? = some st'
    ∧ ∀ d, d ≠ dev.toNat → ((s.setDeviceState dev st').raise r).devstate[d]? = s.devstate[d]? := by
  obtain ⟨hlt, -⟩ := List.getElem?_eq_some_iff.1 hst
  exact ⟨List.getElem?_set_self hlt, fun d hd => List.getElem?_set_ne hd.symm⟩

/-- Settles O18: a slot whose range holds the address is the lookup's answer, its device is Addressable, and the
routed access stores the state of that device alone. -/
theorem accessIsOneOperationOfTheOwner : Obligations.AccessIsOneOperationOfTheOwner := by
  intro s k sl addr h hdev hh hk hlow hhigh
  have hl := (h.lookup_eq_some_iff hk addr).2 (Slot.hit_iff.2 ⟨hlow, hhigh⟩)
  obtain ⟨b, st, hb, hst, rfl⟩ := h.slot_device hdev hk
  have hroute := State.route_of_owner hl hb
  refine ⟨b, _, hb, hst, ⟨_, exec_busRead_of_route hh hroute, ?_⟩, fun data =>
    ⟨_, exec_busWrite_of_route data hh hroute, ?_⟩⟩
  · obtain ⟨hown, hothers⟩ := setDeviceState_raise_devstate hst _ _
    refine ⟨hown, hothers, ?_⟩
    rw [State.lastResponse_raise, Slot.local]
    cases (devRead b (s.deviceState sl.dev) (addr - sl.base)).1 <;> rfl
  · obtain ⟨hown, hothers⟩ := setDeviceState_raise_devstate hst _ _
    refine ⟨hown, hothers, ?_⟩
    rw [State.lastResponse_raise, Slot.local]
    cases (devWrite b (s.deviceState sl.dev) (addr - sl.base) data).1 <;> rfl

/-! ### Fatality (40_bus.md R87) -/

/-- A fatal response to an access is a bus error, or a device error that is itself fatal. -/
theorem access_fatal_cases {s : State} {i : Instr} {addr : Half} {r : Response} (hi : Accesses i addr)
    (hr : (effect i s).lastResponse = some r) (hfatal : r.fatal = true) :
    r = .unmapped ∨ r = .notAddressable ∨ ∃ e : HardwareError, r = .deviceError e ∧ e.fatal = true := by
  obtain ⟨-, heff⟩ | ⟨_, -, -, heff⟩ | ⟨_, _, _, r', -, -, heff, hkind, -⟩ := effect_access_cases hi s <;>
    rw [heff, State.lastResponse_raise, Option.some.injEq] at hr <;> subst hr
  · exact .inl rfl
  · exact .inr (.inl rfl)
  · obtain ⟨v, rfl⟩ | ⟨e, rfl⟩ := hkind
    · cases hfatal
    · exact .inr (.inr ⟨e, rfl, hfatal⟩)

/-- Settles O22: the response to a routed access is made of the device's reply alone, and the latch becomes its
fatality. -/
theorem fatalityIsForwardedUnchanged : Obligations.FatalityIsForwardedUnchanged := by
  refine ⟨⟨rfl, rfl⟩, fun s addr hh => ⟨fun tg hroute => ?_, fun tg data hroute => ?_,
    fun i t r hi hexec hr hfatal => ?_⟩⟩
  · refine ⟨_, _, exec_busRead_of_route hh hroute, rfl, by simp [hh], ?_⟩
    cases (devRead tg.behaviour (s.deviceState tg.dev) tg.loc).1 <;> rfl
  · refine ⟨_, _, exec_busWrite_of_route data hh hroute, rfl, by simp [hh], ?_⟩
    cases (devWrite tg.behaviour (s.deviceState tg.dev) tg.loc data).1 <;> rfl
  · obtain ⟨hhalted, -⟩ | ⟨-, rfl⟩ := exec_next.1 hexec
    · simp [hh] at hhalted
    · exact access_fatal_cases hi hr hfatal

end Sys2Proof.Machine
end

section
/-! PROOFS of the statements about the register commands (41_register_access.md): the words and effects of the gets
and the sets, and the set-then-get law over the six registers as one indexed file. -/

namespace Sys2Proof.Machine

/-! ### A set of any register -/

/-- The set of a register to a value taken modulo its width (10_state.md R19, R20). -/
def State.setReg (s : State) (r : Reg) (v : Nat) : State :=
  match r with
  | .pc => s.setPc (BitVec.ofNat 16 v)
  | .sp => s.setSp (BitVec.ofNat 8 v)
  | .a => s.setA (BitVec.ofNat 8 v)
  | .x => s.setX (BitVec.ofNat 8 v)
  | .y => s.setY (BitVec.ofNat 8 v)
  | .p => s.setP (BitVec.ofNat 8 v)

@[simp] theorem State.setReg_busPart (s : State) (r : Reg) (v : Nat) : (s.setReg r v).busPart = s.busPart := by
  cases r <;> rfl

@[simp] theorem State.setReg_halted (s : State) (r : Reg) (v : Nat) : (s.setReg r v).halted = s.halted := by
  cases r <;> rfl

@[simp] theorem State.withRegs_setReg (s : State) (r : Reg) (v : Nat)
    (q : Half × Byte × Byte × Byte × Byte × Byte) :
    (s.setReg r v).withRegs q = s.withRegs q := by
  cases r <;> rfl

@[simp] theorem State.respond_setReg (s : State) (resp : Response) (r : Reg) (v : Nat) :
    (s.respond resp).setReg r v = (s.setReg r v).respond resp := by
  cases r <;> rfl

@[simp] theorem State.reg_respond (s : State) (resp : Response) : (s.respond resp).reg = s.reg := by
  funext r
  cases r <;> rfl

@[simp] theorem State.busPart_respond (s : State) (resp : Response) : (s.respond resp).busPart = s.busPart := rfl

/-- A set updates the file of the six registers at the one it names. -/
@[simp] theorem State.reg_setReg (s : State) (r : Reg) (v : Nat) :
    (s.setReg r v).reg = Function.update s.reg r (v % 2 ^ r.width) := by
  funext r'
  cases r <;> cases r' <;> rfl

/-- The six registers and what lies outside the register file make up the state. -/
theorem State.eq_of_reg_eq {s t : State} (hreg : s.reg = t.reg) (hrest : ∀ q, s.withRegs q = t.withRegs q) :
    s = t := by
  have hval : ∀ r, s.reg r = t.reg r := congrFun hreg
  have hregs : s.regPart = t.regPart := by
    simp only [State.regPart, BitVec.eq_of_toNat_eq (hval .pc), BitVec.eq_of_toNat_eq (hval .sp),
      BitVec.eq_of_toNat_eq (hval .a), BitVec.eq_of_toNat_eq (hval .x), BitVec.eq_of_toNat_eq (hval .y),
      BitVec.eq_of_toNat_eq (hval .p)]
  calc s = s.withRegs s.regPart := rfl
    _ = t.withRegs t.regPart := by rw [hregs, hrest]
    _ = t := rfl

theorem State.setReg_comm (s : State) {r r' : Reg} (h : r ≠ r') (v v' : Nat) :
    (s.setReg r v).setReg r' v' = (s.setReg r' v').setReg r v := by
  refine State.eq_of_reg_eq ?_ fun q => by simp only [State.withRegs_setReg]
  simp only [State.reg_setReg]
  exact Function.update_comm h _ _ _

/-! ### The get and the set of any register -/

theorem exec_getCommand {s : State} (hh : s.halted = false) (r : Reg) :
    exec r.getCommand s = .next (s.respond (.ok (BitVec.ofNat 16 (s.reg r)))) := by
  rw [exec_running hh]
  cases r <;> simp [Reg.getCommand, effect, State.reg, zext16]

theorem exec_setCommand {s : State} (hh : s.halted = false) (r : Reg) (v : Nat) :
    exec (r.setCommand v) s = .next ((s.setReg r v).respond (.ok noValue)) := by
  rw [exec_running hh]
  cases r <;> rfl

theorem execAll_set_get {s : State} (hh : s.halted = false) (r : Reg) {v : Nat} (hv : v < 2 ^ r.width) :
    execAll [r.setCommand v, r.getCommand] s =
      .next (((s.setReg r v).respond (.ok noValue)).respond (.ok (BitVec.ofNat 16 v))) := by
  rw [execAll_cons (exec_setCommand hh r v), execAll_cons (exec_getCommand (by simpa using hh) r)]
  simp [execAll, Nat.mod_eq_of_lt hv]

theorem execAll_set_set {s : State} (hh : s.halted = false) (r r' : Reg) (v v' : Nat) :
    execAll [r.setCommand v, r'.setCommand v'] s =
      .next ((((s.setReg r v).setReg r' v').respond (.ok noValue)).respond (.ok noValue)) := by
  rw [execAll_cons (exec_setCommand hh r v), execAll_cons (exec_setCommand (by simpa using hh) r' v'),
    State.respond_setReg]
  rfl

/-- Settles O8: a set is an update of the register file at one register, and updates at different registers
commute. -/
theorem setThenGetAnswersTheValue : Obligations.SetThenGetAnswersTheValue := by
  refine fun s hh => ⟨fun r v hv => ?_, fun r v hv => ?_, fun r v v' _ hv' => ?_, fun r r' v v' hne => ?_⟩
  · exact ⟨_, execAll_set_get hh r hv, rfl⟩
  · refine ⟨_, exec_setCommand hh r v, ?_, fun r' hne => ?_, by simp, by simp⟩
    · simp [Nat.mod_eq_of_lt hv]
    · simp [Function.update_of_ne hne]
  · exact ⟨_, execAll_set_set hh r r v v', by simp [Nat.mod_eq_of_lt hv']⟩
  · exact ⟨_, execAll_set_set hh r r' v v', State.setReg_comm s hne v v' ▸ execAll_set_set hh r' r v' v⟩

/-! ### Words and effects, command by command (41_register_access.md R90 to R101) -/

/-- Past the gate a command completes with its effect, and at the gate with HALTED. -/
theorem completes_of_effect {i : Instr} {f : State → State} (heff : ∀ s, effect i s = f s) : Completes i f :=
  fun s => ⟨fun hh => heff s ▸ exec_running hh i, fun hh => exec_halted hh i⟩

/-- A command that every pool admits is spelled by its own word and completes with its effect. -/
theorem spelledBy_and_completes {i : Instr} {f : State → State} (hrow : decodeRow (encode i) = .ok i)
    (hwf : ∀ ndev, i.wf ndev = true) (heff : ∀ s, effect i s = f s) : SpelledBy i (encode i) ∧ Completes i f :=
  ⟨spelledBy_encode hrow hwf, completes_of_effect heff⟩

/-- Settles O1: the row of each get reads its word back, and its effect is the response alone. -/
theorem getCommandsAnswerTheRegister : Obligations.GetCommandsAnswerTheRegister :=
  ⟨spelledBy_and_completes Laws.EncodedInRow.getPc (fun _ => rfl) fun _ => rfl,
    spelledBy_and_completes Laws.EncodedInRow.getSp (fun _ => rfl) fun _ => rfl,
    spelledBy_and_completes Laws.EncodedInRow.getA (fun _ => rfl) fun _ => rfl,
    spelledBy_and_completes Laws.EncodedInRow.getX (fun _ => rfl) fun _ => rfl,
    spelledBy_and_completes Laws.EncodedInRow.getY (fun _ => rfl) fun _ => rfl,
    spelledBy_and_completes Laws.EncodedInRow.getP (fun _ => rfl) fun _ => rfl⟩

/-- Settles O2: the row of each set reads its word back at every operand, and its effect is the update of the one
register and the response. -/
theorem setCommandsWriteOneRegister : Obligations.SetCommandsWriteOneRegister :=
  ⟨fun v => spelledBy_and_completes (Laws.EncodedInRow.setPc v) (fun _ => rfl) fun _ => rfl,
    fun v => spelledBy_and_completes (Laws.EncodedInRow.setSp v) (fun _ => rfl) fun _ => rfl,
    fun v => spelledBy_and_completes (Laws.EncodedInRow.setA v) (fun _ => rfl) fun _ => rfl,
    fun v => spelledBy_and_completes (Laws.EncodedInRow.setX v) (fun _ => rfl) fun _ => rfl,
    fun v => spelledBy_and_completes (Laws.EncodedInRow.setY v) (fun _ => rfl) fun _ => rfl,
    fun v => spelledBy_and_completes (Laws.EncodedInRow.setP v) (fun _ => rfl) fun _ => rfl⟩

end Sys2Proof.Machine
end

section
/-! PROOFS of the statements about the counters (42_counters.md): the wrap helper is addition and subtraction of the
count's residue, so its laws are those of the group of words, and the four counter commands are that helper. -/

namespace Sys2Proof.Machine

/-! ### The wrap helper as arithmetic on words (42_counters.md R114) -/

theorem wrapAdd_eq_add_ofNat (N : Nat) (r : BitVec N) (n : Nat) : wrapAdd N r n = r + BitVec.ofNat N n := by
  simp [wrapAdd, BitVec.ofNat_add]

theorem wrapSub_eq_sub_ofNat (N : Nat) (r : BitVec N) (n : Nat) : wrapSub N r n = r - BitVec.ofNat N n := by
  simp [wrapSub, Int.sub_eq_add_neg, BitVec.ofInt_add, BitVec.ofInt_neg, BitVec.ofInt_natCast,
    BitVec.sub_eq_add_neg]

/-! ### The laws of the wrap helper (42_counters.md R115) -/

theorem ofNat_mod_two_pow (N n : Nat) : BitVec.ofNat N (n % 2 ^ N) = BitVec.ofNat N n := by
  apply BitVec.eq_of_toNat_eq
  simp

/-- The complement of a count modulo 2^N is its negation as a word. -/
theorem ofNat_two_pow_sub_mod (N n : Nat) : BitVec.ofNat N (2 ^ N - n % 2 ^ N) = -BitVec.ofNat N n := by
  apply BitVec.eq_of_toNat_eq
  simp

theorem wrapAdd_mod (N : Nat) (r : BitVec N) (n : Nat) : wrapAdd N r (n % 2 ^ N) = wrapAdd N r n := by
  simp only [wrapAdd_eq_add_ofNat, ofNat_mod_two_pow]

theorem wrapSub_mod (N : Nat) (r : BitVec N) (n : Nat) : wrapSub N r (n % 2 ^ N) = wrapSub N r n := by
  simp only [wrapSub_eq_sub_ofNat, ofNat_mod_two_pow]

theorem wrapSub_wrapAdd (N : Nat) (r : BitVec N) (n : Nat) : wrapSub N (wrapAdd N r n) n = r := by
  rw [wrapSub_eq_sub_ofNat, wrapAdd_eq_add_ofNat, BitVec.add_sub_cancel]

theorem wrapAdd_wrapSub (N : Nat) (r : BitVec N) (n : Nat) : wrapAdd N (wrapSub N r n) n = r := by
  rw [wrapAdd_eq_add_ofNat, wrapSub_eq_sub_ofNat, BitVec.sub_add_cancel]

theorem wrapAdd_wrapAdd (N : Nat) (r : BitVec N) (m n : Nat) : wrapAdd N (wrapAdd N r m) n = wrapAdd N r (m + n) := by
  simp only [wrapAdd_eq_add_ofNat, BitVec.ofNat_add, BitVec.add_assoc]

theorem wrapSub_eq_wrapAdd (N : Nat) (r : BitVec N) (n : Nat) :
    wrapSub N r n = wrapAdd N r (2 ^ N - n % 2 ^ N) := by
  rw [wrapSub_eq_sub_ofNat, wrapAdd_eq_add_ofNat, ofNat_two_pow_sub_mod, BitVec.sub_eq_add_neg]

/-- Settles O10: adding and subtracting a count are adding and subtracting its residue as a word, and the laws are
those of the group of words. -/
theorem wrapHelperLaws : Obligations.WrapHelperLaws := fun N r m n =>
  ⟨⟨by simp [wrapAdd_eq_add_ofNat], by simp [wrapSub_eq_sub_ofNat]⟩,
    ⟨(wrapAdd_mod N r n).symm, (wrapSub_mod N r n).symm⟩,
    ⟨wrapSub_wrapAdd N r n, wrapAdd_wrapSub N r n⟩,
    wrapAdd_wrapAdd N r m n,
    wrapSub_eq_wrapAdd N r n,
    ⟨BitVec.isLt _, BitVec.isLt _⟩⟩

/-! ### The counter commands (42_counters.md R110 to R114) -/

theorem completes_incPc (n : Half) : Completes (.incPc n) fun s =>
    { s with pc := wrapAdd 16 s.pc n.toNat, responses := .ok 0x0000#16 :: s.responses } :=
  completes_of_effect fun _ => rfl

theorem completes_decPc (n : Half) : Completes (.decPc n) fun s =>
    { s with pc := wrapSub 16 s.pc n.toNat, responses := .ok 0x0000#16 :: s.responses } :=
  completes_of_effect fun _ => rfl

/-- The sp counters take their count modulo 256 (30_encoding.md R62), which the helper at 8 bits does anyway. -/
theorem completes_incSp (n : Half) : Completes (.incSp n) fun s =>
    { s with sp := wrapAdd 8 s.sp n.toNat, responses := .ok 0x0000#16 :: s.responses } :=
  completes_of_effect fun s => by rw [← wrapAdd_mod]; rfl

theorem completes_decSp (n : Half) : Completes (.decSp n) fun s =>
    { s with sp := wrapSub 8 s.sp n.toNat, responses := .ok 0x0000#16 :: s.responses } :=
  completes_of_effect fun s => by rw [← wrapSub_mod]; rfl

/-- Settles O9: the values of the helper are those of the rule, and each counter's effect is the helper on its
register. -/
theorem countersUseTheWrapHelper : Obligations.CountersUseTheWrapHelper :=
  ⟨fun N r n => ⟨wrapAdd_toNat N r n, wrapSub_toNat N r n⟩,
    fun n => ⟨completes_incPc n, completes_decPc n, completes_incSp n, completes_decSp n⟩⟩

/-- Settles O3: the row of each counter reads its word back at every count, and the helper on a register is addition
or subtraction of the count narrowed to the register's width. -/
theorem counterCommandsWrap : Obligations.CounterCommandsWrap := by
  refine ⟨fun n => ⟨spelledBy_encode (Laws.EncodedInRow.incPc n) fun _ => rfl, ?_⟩,
    fun n => ⟨spelledBy_encode (Laws.EncodedInRow.decPc n) fun _ => rfl, ?_⟩,
    fun n => ⟨spelledBy_encode (Laws.EncodedInRow.incSp n) fun _ => rfl, ?_⟩,
    fun n => ⟨spelledBy_encode (Laws.EncodedInRow.decSp n) fun _ => rfl, ?_⟩⟩
  · simpa only [wrapAdd_eq_add] using completes_incPc n
  · simpa only [wrapSub_eq_sub] using completes_decPc n
  · simpa only [wrapAdd_eq_add_ofNat, BitVec.ofNat_toNat] using completes_incSp n
  · simpa only [wrapSub_eq_sub_ofNat, BitVec.ofNat_toNat] using completes_decSp n

end Sys2Proof.Machine
end

section
/-! PROOFS of the statements about the flag commands (43_flags.md): the status register is the family of its eight
flags, a flag write is an update of that family at one flag, and the laws are those of such updates. -/

namespace Sys2Proof

/-! ### The flags are the bits of a byte (10_state.md R16) -/

/-- Every bit of a byte is a flag. -/
theorem Flag.exists_index_eq {k : Nat} (hk : k < 8) : ∃ f : Flag, f.index = k := by
  have hbits := congrArg BitVec.toNat (Flag.bits_ofBits (BitVec.ofNat 3 k))
  have hlt := (Flag.ofBits (BitVec.ofNat 3 k)).index_lt
  simp only [Flag.bits, BitVec.toNat_ofNat] at hbits
  exact ⟨Flag.ofBits (BitVec.ofNat 3 k), by omega⟩

/-! ### The words of the flag commands (30_encoding.md R61) -/

theorem ofFields_flagField (op : Byte) (f : Flag) :
    Word.ofFields op 0 (flagField f) = op ++ 0x0000#16 ++ 0#5 ++ BitVec.ofNat 3 f.index :=
  (BitVec.append_assoc (x₁ := op ++ 0x0000#16) (x₂ := 0#5) (x₃ := f.bits)).symm

theorem ofFields_flagValueField (op : Byte) (f : Flag) (v : Bool) :
    Word.ofFields op 0 (flagValueField f v) =
      op ++ 0x0000#16 ++ 0#4 ++ BitVec.ofBool v ++ BitVec.ofNat 3 f.index :=
  calc op ++ 0x0000#16 ++ (0#4 ++ BitVec.ofBool v ++ f.bits)
      = op ++ 0x0000#16 ++ (0#4 ++ BitVec.ofBool v) ++ f.bits :=
        (BitVec.append_assoc (x₁ := op ++ 0x0000#16) (x₂ := 0#4 ++ BitVec.ofBool v) (x₃ := f.bits)).symm
    _ = op ++ 0x0000#16 ++ 0#4 ++ BitVec.ofBool v ++ f.bits :=
        congrArg (· ++ f.bits) (BitVec.append_assoc (x₁ := op ++ 0x0000#16) (x₂ := 0#4) (x₃ := BitVec.ofBool v)).symm

end Sys2Proof

namespace Sys2Proof.Machine

/-! ### A byte as the family of its flags -/

theorem mem_flagList (f : Flag) : f ∈ flagList := by
  cases f <;> decide

theorem flagGet_injective : Function.Injective flagGet := by
  intro p q h
  refine BitVec.eq_of_getLsbD_eq fun k hk => ?_
  obtain ⟨f, rfl⟩ := Flag.exists_index_eq hk
  exact congrFun h f

@[simp] theorem flagGet_or (p q : Byte) (f : Flag) : flagGet (p ||| q) f = (flagGet p f || flagGet q f) :=
  BitVec.getLsbD_or

@[simp] theorem flagGet_and (p q : Byte) (f : Flag) : flagGet (p &&& q) f = (flagGet p f && flagGet q f) :=
  BitVec.getLsbD_and

@[simp] theorem flagGet_xor (p q : Byte) (f : Flag) : flagGet (p ^^^ q) f = (flagGet p f ^^ flagGet q f) :=
  BitVec.getLsbD_xor

@[simp] theorem flagGet_not (p : Byte) (f : Flag) : flagGet (~~~p) f = !flagGet p f := by
  simp only [flagGet, BitVec.getLsbD_not, f.index_lt, decide_true, Bool.true_and]

@[simp] theorem flagGet_flagMask (f g : Flag) : flagGet (flagMask f) g = decide (g = f) := by
  have hg := g.index_lt
  rw [Bool.eq_iff_iff, decide_eq_true_iff, ← Flag.index_inj]
  simp only [flagGet, flagMask, BitVec.getLsbD_shiftLeft, BitVec.getLsbD_one, Bool.and_eq_true, Bool.not_eq_true',
    decide_eq_true_iff, decide_eq_false_iff_not]
  omega

/-- A set updates the family of the flags at the one it names (43_flags.md R121). -/
@[simp] theorem flagGet_flagSet (p : Byte) (f : Flag) (v : Bool) :
    flagGet (flagSet p f v) = Function.update (flagGet p) f v := by
  funext g
  by_cases h : g = f <;> cases v <;> simp [flagSet, h]

/-- A toggle is the set to the complement (43_flags.md R122). -/
theorem flagToggle_eq_flagSet (p : Byte) (f : Flag) : flagToggle p f = flagSet p f (!flagGet p f) := by
  apply flagGet_injective
  funext g
  by_cases h : g = f <;> simp [flagToggle, h]

theorem flagGet_allOnes (f : Flag) : flagGet 0xFF#8 f = true := by
  cases f <;> rfl

theorem flagGet_zero (f : Flag) : flagGet 0x00#8 f = false := by
  cases f <;> rfl

/-! ### The laws of the updates (43_flags.md R123) -/

theorem flagGet_flagSet_same (p : Byte) (f : Flag) (v : Bool) : flagGet (flagSet p f v) f = v := by simp

theorem flagGet_flagSet_of_ne {f g : Flag} (h : g ≠ f) (p : Byte) (v : Bool) :
    flagGet (flagSet p f v) g = flagGet p g := by simp [h]

theorem flagSet_flagSet_same (p : Byte) (f : Flag) (v v' : Bool) : flagSet (flagSet p f v) f v' = flagSet p f v' :=
  flagGet_injective (by simp)

theorem flagSet_comm (p : Byte) {f g : Flag} (h : f ≠ g) (v v' : Bool) :
    flagSet (flagSet p f v) g v' = flagSet (flagSet p g v') f v :=
  flagGet_injective (by simp only [flagGet_flagSet, Function.update_comm h])

theorem flagToggle_flagToggle (p : Byte) (f : Flag) : flagToggle (flagToggle p f) f = p :=
  flagGet_injective (by simp [flagToggle_eq_flagSet])

/-! ### Sequences of register commands -/

/-- Register commands on a running block have their effects one after the other. -/
theorem execAll_of_register {l : List Instr} (hl : l.any Instr.isBus = false) {s : State} (hh : s.halted = false) :
    execAll l s = .next (l.foldl (fun t i => effect i t) s) := by
  induction l generalizing s with
  | nil => rfl
  | cons i rest ih =>
    rw [List.any_cons, Bool.or_eq_false_iff] at hl
    obtain ⟨hi, hrest⟩ := hl
    obtain ⟨-, hhalted, -⟩ := effect_register hi s
    rw [execAll_cons (exec_running hh i), ih hrest (hhalted.trans hh), List.foldl_cons]

/-! ### The flag commands (43_flags.md R120 to R122) -/

/-- The answer of GET_FLAG, zero extended. -/
theorem zext16Bit_eq_ite (v : Bool) : zext16Bit v = if v then 0x0001#16 else 0x0000#16 := by
  cases v <;> rfl

theorem lastResponse_getFlag {s : State} {f : Flag} {v : Bool} (h : flagGet s.p f = v) :
    (effect (.getFlag f) s).lastResponse = some (.ok (if v then 0x0001#16 else 0x0000#16)) := by
  rw [← zext16Bit_eq_ite, ← h]
  rfl

/-- A write of one flag sets it to a value that depends on that flag alone. -/
theorem WritesFlag.effect_eq {c : Instr} {f : Flag} (hc : WritesFlag c f) : ∃ b : Bool → Bool, ∀ s : State,
    effect c s = (s.setP (flagSet s.p f (b (flagGet s.p f)))).respond (.ok noValue) := by
  obtain ⟨v, rfl⟩ | rfl := hc
  · exact ⟨fun _ => v, fun s => rfl⟩
  · exact ⟨Bool.not, fun s => by rw [← flagToggle_eq_flagSet]; rfl⟩

theorem WritesFlag.isBus_eq_false {c : Instr} {f : Flag} (hc : WritesFlag c f) : c.isBus = false := by
  obtain ⟨v, rfl⟩ | rfl := hc <;> rfl

/-- Writes of different flags commute. -/
theorem WritesFlag.effect_comm {c c' : Instr} {f g : Flag} (hc : WritesFlag c f) (hc' : WritesFlag c' g) (h : f ≠ g)
    (s : State) : effect c (effect c' s) = effect c' (effect c s) := by
  obtain ⟨b, hb⟩ := hc.effect_eq
  obtain ⟨b', hb'⟩ := hc'.effect_eq
  simp only [hb, hb', State.respond_p, State.setP_p, flagGet_flagSet, Function.update_of_ne h,
    Function.update_of_ne h.symm, flagSet_comm s.p h]
  rfl

/-- Sets of a list of flags to one value write the flags of the list and leave every other. -/
theorem flagGet_foldl_setFlag (l : List Flag) (v : Bool) (s : State) (g : Flag) :
    flagGet ((l.map fun f => Instr.setFlag f v).foldl (fun t i => effect i t) s).p g
      = if g ∈ l then v else flagGet s.p g := by
  induction l generalizing s with
  | nil => rfl
  | cons f rest ih =>
    have hp : flagGet (effect (.setFlag f v) s).p = Function.update (flagGet s.p) f v := flagGet_flagSet s.p f v
    rw [List.map_cons, List.foldl_cons, ih, hp, Function.update_apply]
    by_cases hg : g ∈ rest <;> simp [hg]

/-- Setting all flags to one value gives the byte of that value. -/
theorem execAll_set_all_flags {s : State} (hh : s.halted = false) {v : Bool} {q : Byte} (hq : ∀ f, flagGet q f = v) :
    ∃ t, execAll (flagList.map fun f => .setFlag f v) s = .next t ∧ t.p = q := by
  refine ⟨_, execAll_of_register rfl hh, flagGet_injective (funext fun g => ?_)⟩
  rw [flagGet_foldl_setFlag, if_pos (mem_flagList g), hq]

/-- GET_P after a register command answers the byte whose bits GET_FLAG answers. -/
theorem getP_after_register {c : Instr} (hc : c.isBus = false) {s : State} (hh : s.halted = false) :
    ∃ (t u : State) (q : Byte), exec c s = .next t ∧ exec .getP t = .next u
      ∧ u.lastResponse = some (.ok (q.setWidth 16))
      ∧ ∀ k : Flag, ∃ w, exec (.getFlag k) t = .next w
        ∧ w.lastResponse = some (.ok (if q.getLsbD k.index then 0x0001#16 else 0x0000#16)) := by
  obtain ⟨-, hhalted, -⟩ := effect_register hc s
  have hrun : (effect c s).halted = false := hhalted.trans hh
  exact ⟨_, _, (effect c s).p, exec_running hh c, exec_running hrun .getP, rfl,
    fun k => ⟨_, exec_running hrun (.getFlag k), lastResponse_getFlag rfl⟩⟩

/-- Settles O11: a flag write updates the family of the flags at one of them, and the laws are those of
`Function.update`; (L8) holds of every register command. -/
theorem flagLawsHold : Obligations.FlagLawsHold := by
  intro s hh
  refine ⟨fun i v => ?set_get, fun i j v hji => ?set_frame, fun i => ?toggle_toggle, fun q i => ?setP_get,
    fun i => ?toggle_set, fun i v v' => ?set_set, fun i j c c' hij hc hc' => ?commute, fun i c hc => ?getP,
    execAll_set_all_flags hh flagGet_allOnes, execAll_set_all_flags hh flagGet_zero⟩
  case set_get => exact ⟨_, execAll_of_register rfl hh, lastResponse_getFlag (flagGet_flagSet_same s.p i v)⟩
  case set_frame => exact ⟨_, exec_running hh _, flagGet_flagSet_of_ne hji s.p v⟩
  case toggle_toggle => exact ⟨_, execAll_of_register rfl hh, flagToggle_flagToggle s.p i⟩
  case setP_get => exact ⟨_, execAll_of_register rfl hh, lastResponse_getFlag rfl⟩
  case toggle_set =>
    rw [exec_running hh, exec_running hh]
    exact congrArg (fun p => Host.Outcome.next ((s.setP p).respond (.ok noValue))) (flagToggle_eq_flagSet s.p i)
  case set_set =>
    have hregs := congrArg (fun p => (s.pc, s.sp, s.a, s.x, s.y, p)) (flagSet_flagSet_same s.p i v v')
    exact ⟨_, _, execAll_of_register rfl hh, exec_running hh _, hregs, rfl, rfl⟩
  case commute =>
    have hbus := hc.isBus_eq_false
    have hbus' := hc'.isBus_eq_false
    refine ⟨_, execAll_of_register (by simp [hbus, hbus']) hh, ?_⟩
    rw [execAll_of_register (by simp [hbus, hbus']) hh]
    exact congrArg _ (hc.effect_comm hc' hij s)
  case getP =>
    obtain hc | rfl := hc
    · exact getP_after_register hc.isBus_eq_false hh
    · exact getP_after_register rfl hh

/-- Settles O4: the row of each flag command reads its word back, and its effect is the rule's bit formula on the
status register. -/
theorem flagCommandsActOnOneBit : Obligations.FlagCommandsActOnOneBit := by
  refine ⟨fun f => ⟨?_, completes_of_effect fun s => ?_⟩, fun f v => ⟨?_, completes_of_effect fun s => rfl⟩,
    fun f => ⟨?_, completes_of_effect fun s => rfl⟩⟩
  · rw [← ofFields_flagField]
    exact spelledBy_encode (Laws.EncodedInRow.getFlag f) fun _ => rfl
  · rw [← flagGet, ← zext16Bit_eq_ite]
    rfl
  · rw [← ofFields_flagValueField]
    exact spelledBy_encode (Laws.EncodedInRow.setFlag f v) fun _ => rfl
  · rw [← ofFields_flagField]
    exact spelledBy_encode (Laws.EncodedInRow.toggleFlag f) fun _ => rfl

end Sys2Proof.Machine
end

section
/-! PROOFS of the statements about errors and halting (60_exceptions.md): the halt gate, the latch that a fatal response
sets, what fatal-error entry leaves alone, the probe that never fails, and the outcome that wins. -/

namespace Sys2Proof.Machine

/-! ### The halt gate (60_exceptions.md R141) -/

/-- The step of a halted block takes the next word, reads nothing of it and answers HALTED. -/
theorem step_of_halted {s : State} {c : Word} {rest : List Word} (hh : s.halted = true)
    (hc : s.commands = c :: rest) :
    step s = .next { s with commands := rest, responses := .halted :: s.responses } := by
  simp [step, State.takeCommand, hc, hh, State.raise, Response.fatal]

/-- Settles O35: the gate stands before every command's own effect, and in a step before the decoder. -/
theorem haltGateRefusesEveryCommand : Obligations.HaltGateRefusesEveryCommand :=
  ⟨fun i _ hh => exec_halted hh i, fun _ _ _ => step_of_halted, rfl, rfl⟩

/-! ### The halt latch (60_exceptions.md R139) -/

theorem Response.fatal_iff (r : Response) :
    r.fatal = true ↔ r = .unmapped ∨ r = .notAddressable ∨ ∃ e, r = .deviceError e ∧ e.fatal = true := by
  cases r <;> simp [Response.fatal]

/-- One response a step, and the latch is set when it is fatal. -/
theorem step_responds {s t : State} (h : step s = .next t) :
    ∃ r, t.responses = r :: s.responses ∧ t.halted = (s.halted || r.fatal) := by
  obtain ⟨c, rest, -, ⟨-, rfl⟩ | ⟨-, -, rfl⟩ | ⟨i, -, -, rfl⟩⟩ := step_next h
  · exact ⟨.halted, rfl, rfl⟩
  · exact ⟨.illegal, rfl, rfl⟩
  · exact effect_responds i { s with commands := rest }

/-- Settles O37: each of the three things a step can do adds one response and its fatality to the latch, and the table
of R132 says which responses are fatal. -/
theorem fatalErrorSetsTheHaltLatch : Obligations.FatalErrorSetsTheHaltLatch := by
  intro s t hstep
  obtain ⟨r, hr, hlatch⟩ := step_responds hstep
  exact ⟨r, hr, by rw [hlatch, Bool.or_eq_true], r.fatal_iff⟩

/-! ### Fatal-error entry (60_exceptions.md R140) -/

theorem Accesses.addr_unique {i : Instr} {addr addr' : Half} (h : Accesses i addr) (h' : Accesses i addr') :
    addr = addr' := by
  obtain rfl | ⟨_, rfl⟩ := h <;> obtain h' | ⟨_, h'⟩ := h' <;> cases h' <;> rfl

/-- Past the halt gate no command but an access answers a fatal response (60_exceptions.md R132). -/
theorem accesses_of_fatal {i : Instr} {s : State} {r : Response} (hr : (effect i s).lastResponse = some r)
    (hfatal : r.fatal = true) : ∃ addr, Accesses i addr := by
  obtain ⟨r', hr', hraised⟩ := effect_raises i s
  obtain rfl : r' = r := Option.some.inj (hr'.symm.trans hr)
  obtain rfl | rfl | ⟨e, rfl, -⟩ := (Response.fatal_iff r').1 hfatal <;> exact hraised

/-- Everything a fatal error can do: it is raised and nothing else happens, or it is a device's and the owner's next
state is stored first. -/
theorem effect_of_fatal {i : Instr} {s : State} {r : Response} (hr : (effect i s).lastResponse = some r)
    (hfatal : r.fatal = true) :
    effect i s = s.raise r
    ∨ ∃ addr sl st e, Accesses i addr ∧ s.lookup addr = some sl ∧ r = .deviceError e
        ∧ effect i s = (s.setDeviceState sl.dev st).raise r := by
  obtain ⟨addr, hi⟩ := accesses_of_fatal hr hfatal
  obtain ⟨-, heff⟩ | ⟨_, -, -, heff⟩ | ⟨sl, _, st, r', hl, -, heff, hkind, -⟩ := effect_access_cases hi s <;>
    rw [heff, State.lastResponse_raise, Option.some.injEq] at hr <;> subst hr
  · exact .inl heff
  · exact .inl heff
  · obtain ⟨v, rfl⟩ | ⟨e, rfl⟩ := hkind
    · cases hfatal
    · exact .inr ⟨addr, sl, st, e, hi, hl, rfl, heff⟩

/-- Settles O38: raising the response writes the latch alone, and the state stored before a device's error is that of
the one slot the command's address has. -/
theorem fatalErrorEntrySavesNothing : Obligations.FatalErrorEntrySavesNothing := by
  intro i s t r hh hexec hr hfatal
  obtain ⟨hhalted, -⟩ | ⟨-, rfl⟩ := exec_next.1 hexec
  · simp [hh] at hhalted
  have hlatch : (effect i s).halted = true := (effect_halted_eq_fatal hh hr).trans hfatal
  obtain heff | ⟨addr, sl, st, e, hi, hl, rfl, heff⟩ := effect_of_fatal hr hfatal <;> rw [heff] at hlatch ⊢
  · exact ⟨hlatch, rfl, rfl, rfl, rfl, rfl, fun _ => rfl, fun _ _ _ _ _ _ => rfl⟩
  · refine ⟨hlatch, rfl, rfl, rfl, rfl, rfl, fun hno => absurd rfl (hno e), fun addr' sl' hi' hl' d hd => ?_⟩
    obtain rfl := hi.addr_unique hi'
    obtain rfl : sl = sl' := Option.some.inj (hl.symm.trans hl')
    exact List.getElem?_set_ne hd.symm

/-! ### The probe that never fails (60_exceptions.md R135) -/

/-- (I9) the owner of a mapped address is Addressable. -/
theorem BusInv.owner_addressable {s : State} (h : BusInv s) {addr : Half} {sl : Slot}
    (hl : s.lookup addr = some sl) : ∃ b, s.behaviourOf sl.dev = some b := by
  obtain ⟨d, hd, hsz⟩ := h.owner_sized hl
  obtain ⟨b, hb⟩ := Capability.behaviour?_of_sizePages? hsz
  exact ⟨b, by rw [State.behaviourOf_eq, hd, Option.bind_some, hb]⟩

/-- Only an access whose owner lacks the capability answers NOT_ADDRESSABLE. -/
theorem probe_fails_of_not_addressable {i : Instr} {s : State}
    (hr : (effect i s).lastResponse = some .notAddressable) :
    ∃ addr sl, s.lookup addr = some sl ∧ s.behaviourOf sl.dev = none := by
  obtain ⟨addr, hi⟩ := accesses_of_fatal hr rfl
  obtain ⟨-, heff⟩ | ⟨sl, hl, hb, -⟩ | ⟨_, _, _, r, -, -, heff, hkind, -⟩ := effect_access_cases hi s
  · simp [heff] at hr
  · exact ⟨addr, sl, hl, hb⟩
  · rw [heff, State.lastResponse_raise, Option.some.injEq] at hr
    subst hr
    simp at hkind

/-- Settles O21: the failed probe is the bus error, and in a table of SizedAddressable devices no probe fails. -/
theorem notAddressableIsUnreachable : Obligations.NotAddressableIsUnreachable := by
  refine ⟨fun s addr sl hh hl hb => ⟨rfl, exec_access_of_not_addressable (.inl rfl) hh hl hb, fun data =>
    exec_access_of_not_addressable (.inr ⟨data, rfl⟩) hh hl hb⟩, fun s t i h hexec hr => ?_⟩
  obtain ⟨-, rfl⟩ | ⟨-, rfl⟩ := exec_next.1 hexec
  · simp at hr
  · obtain ⟨addr, sl, hl, hnone⟩ := probe_fails_of_not_addressable hr
    obtain ⟨b, hsome⟩ := h.owner_addressable hl
    cases hnone.symm.trans hsome

/-! ### The outcome that wins (60_exceptions.md R143) -/

/-- A command has one answer, so the response of the next state it is known to give is its response. -/
theorem lastResponse_of_exec {i : Instr} {s t u : State} {r : Response} (ht : exec i s = .next t)
    (hu : exec i s = .next u) (hr : u.lastResponse = some r) : t.lastResponse = some r := by
  cases ht.symm.trans hu
  exact hr

/-- Settles O34: a step tests the latch, then the decoder; the clauses of an attach are the chain of its checks, and
those of an access the lookup, the probe and the owner's reply. -/
theorem firstOutcomeWins : Obligations.FirstOutcomeWins := by
  refine ⟨fun s c rest hc hh => ⟨_, step_of_halted hh hc, rfl⟩,
    fun s c rest e hc hh hd => ⟨_, step_of_reject hc hh hd, rfl⟩,
    fun s t dev d hh hd ht => ?_, fun s t addr hh ht => ?_, fun s t addr data hh ht => ?_⟩
  · obtain ⟨-, -, hattach⟩ := attachFollowsItsChecks
    obtain ⟨hunsized, hsized⟩ := (hattach s dev hh).2 d hd
    refine ⟨fun hsz => lastResponse_of_exec ht (hunsized hsz) rfl,
      fun hsz => lastResponse_of_exec ht ((hsized _ hsz).1 rfl) rfl, fun sz hsz hz => ?_⟩
    obtain ⟨-, hattached, hexhausted, hfits⟩ := hsized sz hsz
    exact ⟨fun ha => lastResponse_of_exec ht (hattached hz ha) rfl,
      fun ha hx => lastResponse_of_exec ht (hexhausted hz ha hx) rfl,
      fun ha hx => lastResponse_of_exec ht (hfits hz ha hx) rfl⟩
  · refine ⟨fun hl => lastResponse_of_exec ht (exec_access_of_unmapped (.inl rfl) hh hl) rfl, fun sl hl =>
      ⟨fun hb => lastResponse_of_exec ht (exec_access_of_not_addressable (.inl rfl) hh hl hb) rfl, fun b hb => ?_⟩⟩
    refine lastResponse_of_exec ht (exec_busRead_of_route hh (State.route_of_owner hl hb)) ?_
    rw [State.lastResponse_raise, Slot.local]
    cases (devRead b (s.deviceState sl.dev) (addr - sl.base)).1 <;> rfl
  · have hi : Accesses (.busWrite addr data) addr := .inr ⟨data, rfl⟩
    refine ⟨fun hl => lastResponse_of_exec ht (exec_access_of_unmapped hi hh hl) rfl, fun sl hl =>
      ⟨fun hb => lastResponse_of_exec ht (exec_access_of_not_addressable hi hh hl hb) rfl, fun b hb => ?_⟩⟩
    refine lastResponse_of_exec ht (exec_busWrite_of_route data hh (State.route_of_owner hl hb)) ?_
    rw [State.lastResponse_raise, Slot.local]
    cases (devWrite b (s.deviceState sl.dev) (addr - sl.base) data).1 <;> rfl

end Sys2Proof.Machine
end

section
/-! PROOFS of the statements about reset (70_reset_and_hazards.md): what only reset can undo. -/

namespace Sys2Proof.Machine

/-! ### What only reset undoes (70_reset_and_hazards.md R151) -/

/-- A command keeps the table as the head of the next one and never lowers the page counter: the checks of BUS_ATTACH
bound the new count by 256, which its nine bits hold (40_bus.md R80). -/
theorem effect_grows (i : Instr) (s : State) :
    (∃ more, (effect i s).slots = s.slots ++ more) ∧ s.nextPage.toNat ≤ (effect i s).nextPage.toNat := by
  obtain ⟨hslots, hnext⟩ | ⟨dev, sz, d, -, -, -, -, -, hfit, heff⟩ := effect_slots_cases i s
  · exact ⟨⟨[], by simp [hslots]⟩, by rw [hnext]⟩
  · refine ⟨⟨[⟨s.nextBase, sz, dev⟩], by simp [heff]⟩, ?_⟩
    simp only [heff, State.respond_nextPage, State.appendSlot_nextPage, BitVec.toNat_ofNat]
    omega

/-- So does a step: HALTED and ILLEGAL are answered without touching either. -/
theorem step_grows {s t : State} (h : step s = .next t) :
    (∃ more, t.slots = s.slots ++ more) ∧ s.nextPage.toNat ≤ t.nextPage.toNat := by
  obtain ⟨c, rest, -, ⟨-, rfl⟩ | ⟨-, -, rfl⟩ | ⟨i, -, -, rfl⟩⟩ := step_next h
  · exact ⟨⟨[], by simp⟩, le_rfl⟩
  · exact ⟨⟨[], by simp⟩, le_rfl⟩
  · exact effect_grows i { s with commands := rest }

theorem step_keeps_halted {s t : State} (h : step s = .next t) (hh : s.halted = true) : t.halted = true := by
  obtain ⟨r, -, hlatch⟩ := step_responds h
  rw [hlatch, hh, Bool.true_or]

/-- Settles O40: a step adds to the latch, to the end of the table and to the page counter; the reset of a block is the
state after reset over its own pool. -/
theorem onlyResetUndoes : Obligations.OnlyResetUndoes := by
  refine ⟨fun s t hstep => ?_, fun s => (resetLeavesZeroAndNothingMapped s.pool).1⟩
  obtain ⟨hslots, hnext⟩ := step_grows hstep
  exact ⟨step_keeps_halted hstep, hslots, hnext⟩

end Sys2Proof.Machine
end

section
/-! PROOFS of the statements about the encoding and the step (30_encoding.md, 00_scope.md R5): the round trips, one word
and one response a step, and the run of a halted block. -/

namespace Sys2Proof

/-! ### The two round trips (30_encoding.md sections 1 and 2) -/

/-- The row that the word of a command selects reads the command back. -/
theorem decodeRow_encode (i : Instr) : decodeRow (encode i) = .ok i :=
  match i with
  | .getPc => Laws.EncodedInRow.getPc
  | .getSp => Laws.EncodedInRow.getSp
  | .getA => Laws.EncodedInRow.getA
  | .getX => Laws.EncodedInRow.getX
  | .getY => Laws.EncodedInRow.getY
  | .getP => Laws.EncodedInRow.getP
  | .setPc v => Laws.EncodedInRow.setPc v
  | .setSp v => Laws.EncodedInRow.setSp v
  | .setA v => Laws.EncodedInRow.setA v
  | .setX v => Laws.EncodedInRow.setX v
  | .setY v => Laws.EncodedInRow.setY v
  | .setP v => Laws.EncodedInRow.setP v
  | .incPc n => Laws.EncodedInRow.incPc n
  | .decPc n => Laws.EncodedInRow.decPc n
  | .incSp n => Laws.EncodedInRow.incSp n
  | .decSp n => Laws.EncodedInRow.decSp n
  | .getFlag f => Laws.EncodedInRow.getFlag f
  | .setFlag f v => Laws.EncodedInRow.setFlag f v
  | .toggleFlag f => Laws.EncodedInRow.toggleFlag f
  | .busRead addr => Laws.EncodedInRow.busRead addr
  | .busWrite addr data => Laws.EncodedInRow.busWrite addr data
  | .busAttach dev => Laws.EncodedInRow.busAttach dev

/-- A word decodes to a command exactly when it is the command's word and the pool has the device it names. -/
theorem decode_eq_ok_iff {ndev : Nat} {c : Word} {i : Instr} :
    decode ndev c = .ok i ↔ c = encode i ∧ i.wf ndev = true :=
  decode_eq_ok_iff_eq_encode (decodeRow_encode i)

/-- Settles O44: each command's row reads its own word back, so being well formed is all that decoding asks. -/
theorem decodeOfEncodeIsTheCommand : Obligations.DecodeOfEncodeIsTheCommand :=
  fun _ _ hwf => decode_eq_ok_iff.2 ⟨rfl, hwf⟩

/-- Settles O45: no row reads a command from any word but the command's own. -/
theorem encodeOfDecodeIsTheWord : Obligations.EncodeOfDecodeIsTheWord := by
  intro ndev c i hdec
  obtain ⟨rfl, hwf⟩ := decode_eq_ok_iff.1 hdec
  exact ⟨rfl, hwf⟩

/-- Settles O48: the nine words are those of well-formed commands, and each of the three others fails the test of its
own clause of R64. -/
theorem knownWordsDecode : Obligations.KnownWordsDecode := by
  refine ⟨?_, ?_, ?_, ?_, ?_, ?_, ?_, ?_, ?_, by decide, by decide, by decide⟩ <;>
    exact decode_eq_ok_iff.2 (by decide)

end Sys2Proof

namespace Sys2Proof.Machine

/-! ### The step of a block with a word waiting (00_scope.md R5) -/

/-- The step of a running block on a word that spells a command. -/
theorem step_of_decode {s : State} {c : Word} {rest : List Word} {i : Instr} (hc : s.commands = c :: rest)
    (hh : s.halted = false) (hd : decode s.pool.length c = .ok i) : step s = exec i { s with commands := rest } := by
  simp [step, State.takeCommand, hc, hh, hd]

/-- Settles O49: with the latch clear and a word that decodes, both tests before the command let it through. -/
theorem stepRunsTheDecodedCommand : Obligations.StepRunsTheDecodedCommand :=
  fun _ _ _ _ => step_of_decode

theorem State.withFetchWord_toNat (s : State) (c : Word) :
    s.withFetchWord 32 c.toNat = { s with commands := c :: s.commands } := by
  simp [State.withFetchWord, Nat.mod_eq_of_lt c.isLt]

/-- Settles O50: the word presented is the next one taken, and it decodes to the command it is the word of. -/
theorem presentedCommandIsPerformedNext : Obligations.PresentedCommandIsPerformedNext := by
  intro s i hh hwf
  rw [State.withFetchWord_toNat]
  exact step_of_decode (s := { s with commands := encode i :: s.commands }) rfl hh
    (decodeOfEncodeIsTheCommand _ i hwf)

/-- Settles O52: a word that waits meets the halt gate, is rejected by the decoder, or spells a command, and every
command answers behind the gate. -/
theorem stepStopsOnlyWithoutACommand : Obligations.StepStopsOnlyWithoutACommand := by
  refine ⟨fun i s => ⟨_, exec_eq_next i s⟩, fun s hne => ?_, fun s hnil => ?_⟩
  · obtain ⟨c, rest, hc⟩ := List.exists_cons_of_ne_nil hne
    cases hh : s.halted with
    | true => exact ⟨_, step_of_halted hh hc⟩
    | false =>
      cases hd : decode s.pool.length c with
      | error e => exact ⟨_, step_of_reject hc hh hd⟩
      | ok i => exact ⟨_, (step_of_decode hc hh hd).trans (exec_eq_next i _)⟩
  · simp [step, State.takeCommand_eq_none.2 hnil]

/-! ### One word and one response a step (30_encoding.md R66) -/

/-- No command touches the words that wait. -/
theorem effect_commands (i : Instr) (s : State) : (effect i s).commands = s.commands := by
  cases hi : i.isBus with
  | true =>
    obtain ⟨-, -, hcommands⟩ := effect_bus hi s
    exact hcommands
  | false =>
    obtain ⟨-, -, hcommands, -⟩ := effect_register hi s
    exact hcommands

theorem step_takes_one_word {s t : State} (h : step s = .next t) : ∃ c, s.commands = c :: t.commands := by
  obtain ⟨c, rest, hc, ⟨-, rfl⟩ | ⟨-, -, rfl⟩ | ⟨i, -, -, rfl⟩⟩ := step_next h
  · exact ⟨c, hc⟩
  · exact ⟨c, hc⟩
  · exact ⟨c, by rw [effect_commands]; exact hc⟩

/-- Settles O51: the word is taken before anything else, and whatever the step then does ends in one response. -/
theorem oneResponsePerCommand : Obligations.OneResponsePerCommand := by
  intro s t hstep
  obtain ⟨c, hc⟩ := step_takes_one_word hstep
  obtain ⟨r, hr, -⟩ := step_responds hstep
  exact ⟨c, r, hc, hr⟩

/-! ### The run of a halted block (60_exceptions.md R144) -/

/-- A halted block takes word after word, answers HALTED to each and does nothing else. -/
theorem run_of_halted {n : Nat} {s : State} (hh : s.halted = true) (hn : n ≤ s.commands.length) :
    Host.Core.run Sys2Proof.core n s = .next
      { s with commands := s.commands.drop n, responses := List.replicate n .halted ++ s.responses } := by
  induction n generalizing s with
  | zero => rfl
  | succ n ih =>
    obtain ⟨c, rest, hc⟩ := List.exists_cons_of_length_pos (Nat.zero_lt_of_lt hn)
    have hlen : n ≤ rest.length := by simpa [hc] using hn
    refine run_succ.2 ⟨_, step_of_halted hh hc, ?_⟩
    rw [ih (s := { s with commands := rest, responses := .halted :: s.responses }) hh hlen, hc, List.drop_succ_cons,
      List.replicate_succ', List.append_assoc, List.singleton_append]

/-- Settles O36: n words taken and n times HALTED answered, and nothing else of the block written. -/
theorem haltedRunIsQuiescent : Obligations.HaltedRunIsQuiescent :=
  fun _ _ hh hn => ⟨_, run_of_halted hh hn, ⟨rfl, rfl, rfl⟩, rfl, rfl⟩

/-! ### The packed response (30_encoding.md R66) -/

/-- The packed response as a number: status, fatality and data at their places, zeros between. -/
theorem Response.toNat_pack (n : Nat) (r : Response) :
    (r.pack n).toNat =
      r.status.toNat * 2 ^ 28 + r.fatal.toNat * 2 ^ 24 + (r.data?.getD (Config.invalidData n)).toNat := by
  simp only [Response.pack, toNat_append_eq, BitVec.toNat_ofBool, BitVec.toNat_ofNat]
  ring

theorem Response.data?_of_isError {r : Response} (h : r.isError) : r.data? = none := by
  cases r with
  | ok d => exact absurd rfl (h d)
  | _ => rfl

/-- Settles O33: each field is the packed number divided by the weight of its lowest bit, modulo its size. -/
theorem packedResponseFields : Obligations.PackedResponseFields := by
  intro n r
  have hpack := r.toNat_pack n
  have hdata := (r.data?.getD (Config.invalidData n)).isLt
  have hfatal := r.fatal.toNat_lt
  refine ⟨?_, ?_, ?_, ?_, ?_, Response.data?_of_isError⟩
  · apply BitVec.eq_of_toNat_eq
    rw [toNat_extract_eq]
    omega
  · apply BitVec.eq_of_toNat_eq
    rw [toNat_extract_eq, BitVec.toNat_ofNat]
    omega
  · have hbit : (r.pack n).toNat / 2 ^ 24 % 2 = r.fatal.toNat := by omega
    rw [BitVec.getLsbD, Nat.testBit_eq_decide_div_mod_eq, hbit]
    cases r.fatal <;> rfl
  · apply BitVec.eq_of_toNat_eq
    rw [toNat_extract_eq, BitVec.toNat_ofNat]
    omega
  · rintro d rfl
    refine ⟨BitVec.eq_of_toNat_eq ?_, rfl⟩
    rw [toNat_extract_eq]
    simp only [Response.data?, Option.getD_some] at hpack
    omega

end Sys2Proof.Machine
end

section
/-! PROOFS of the remaining statements about the parts of the state (10_state.md section 2): the writers of each
register, and the independence of the register file and the bus. -/

namespace Sys2Proof.Machine

/-! ### The writers of a register (10_state.md R11 to R16) -/

theorem State.reg_of_regPart_eq {s t : State} (h : t.regPart = s.regPart) (r : Reg) : t.reg r = s.reg r := by
  simp only [State.regPart, Prod.mk.injEq] at h
  obtain ⟨hpc, hsp, ha, hx, hy, hp⟩ := h
  cases r <;> simp only [State.reg, *]

/-- A register command writes at most the one register that has it among its writers. -/
theorem effect_reg_of_not_mayWrite {i : Instr} {r : Reg} (hr : i.mayWrite r = false) (s : State) :
    (effect i s).reg r = s.reg r := by
  cases i with
  | getPc | getSp | getA | getX | getY | getP | getFlag => exact congrFun (State.reg_respond s _) r
  | setPc | incPc | decPc => cases r with
    | pc => cases hr
    | sp | a | x | y | p => rfl
  | setSp | incSp | decSp => cases r with
    | sp => cases hr
    | pc | a | x | y | p => rfl
  | setA => cases r with
    | a => cases hr
    | pc | sp | x | y | p => rfl
  | setX => cases r with
    | x => cases hr
    | pc | sp | a | y | p => rfl
  | setY => cases r with
    | y => cases hr
    | pc | sp | a | x | p => rfl
  | setP | setFlag | toggleFlag => cases r with
    | p => cases hr
    | pc | sp | a | x | y => rfl
  | busRead | busWrite | busAttach => exact State.reg_of_regPart_eq (effect_bus rfl s).1 r

/-- Settles O13: HALTED writes no register, and past the gate a command writes the registers it is a writer of. -/
theorem onlyWritersChangeARegister : Obligations.OnlyWritersChangeARegister := by
  intro i s t r hexec hr
  obtain ⟨-, rfl⟩ | ⟨-, rfl⟩ := exec_next.1 hexec
  · exact State.reg_of_regPart_eq rfl r
  · exact effect_reg_of_not_mayWrite hr s

/-! ### The register file and the bus (10_state.md R19) -/

/-- A bus command acts the same whatever the registers hold, and keeps them. -/
theorem exec_bus_withRegs {i : Instr} (hi : i.isBus = true) (s : State)
    (r : Half × Byte × Byte × Byte × Byte × Byte) :
    ∃ t, exec i s = .next t ∧ t.regPart = s.regPart ∧ exec i (s.withRegs r) = .next (t.withRegs r) := by
  cases hh : s.halted with
  | true => exact ⟨_, exec_halted hh i, rfl, exec_halted (s := s.withRegs r) hh i⟩
  | false =>
    obtain ⟨hregs, -⟩ := effect_bus hi s
    refine ⟨_, exec_running hh i, hregs, ?_⟩
    rw [← effect_withRegs_of_isBus hi]
    exact exec_running (s := s.withRegs r) hh i

/-- A register command reads nothing but the registers: what it leaves in them and answers is the same on every bus. -/
theorem effect_register_congr {i : Instr} (hi : i.isBus = false) {s s' : State} (hregs : s'.regPart = s.regPart)
    (hresp : s'.responses = s.responses) :
    (effect i s').regPart = (effect i s).regPart ∧ (effect i s').responses = (effect i s).responses := by
  have hsame : s' = { s'.withRegs s.regPart with responses := s.responses } := by rw [← hregs, ← hresp]; rfl
  rw [hsame]
  cases i with
  | busRead | busWrite | busAttach => cases hi
  | _ => exact ⟨rfl, rfl⟩

/-- A read of a byte of the space depends on the bus alone. -/
theorem State.peek_of_busPart_eq {s t : State} (h : t.busPart = s.busPart) (addr : Half) :
    t.peek addr = s.peek addr := by
  simp only [State.busPart, Prod.mk.injEq] at h
  obtain ⟨hslots, -, hdevstate, hpool⟩ := h
  exact State.peek_congr hslots hpool addr fun sl _ => by simp only [State.deviceState, hdevstate]

/-- Settles O14: either side of the state is out of the reach of the other side's commands, and the gate before both
reads the latch alone. -/
theorem registerFileAndBusAreIndependent : Obligations.RegisterFileAndBusAreIndependent := by
  refine ⟨fun i s r hi => exec_bus_withRegs hi s r, fun i s hi => ?_⟩
  cases hh : s.halted with
  | true =>
    refine ⟨_, exec_halted hh i, rfl, hh, fun _ => rfl, fun s' hregs hhalted hresp => ?_⟩
    exact ⟨_, exec_halted hhalted i, hregs, by simp [hresp]⟩
  | false =>
    obtain ⟨hbus, hlatch, -⟩ := effect_register hi s
    refine ⟨_, exec_running hh i, hbus, hlatch.trans hh, State.peek_of_busPart_eq hbus,
      fun s' hregs hhalted hresp => ?_⟩
    exact ⟨_, exec_running hhalted i, effect_register_congr hi hregs hresp⟩

end Sys2Proof.Machine
end

section
/-! PROOFS of the remaining statements about the devices and the bus (20_memory.md, 40_bus.md): the local address, the
attach that keeps failing, the mapped address that stays mapped, the bytes an access leaves alone, and the device
invariants. -/

namespace Sys2Proof.Machine

/-! ### The local address (20_memory.md R53) -/

/-- Settles O16: a hit has its base at or below the address, so the 16-bit difference is exact. -/
theorem localAddressIsInTheFootprint : Obligations.LocalAddressIsInTheFootprint := by
  intro s addr sl hl
  obtain ⟨-, hlow, hhigh⟩ := State.lookup_some hl
  have hlocal : (sl.local addr).toNat = addr.toNat - sl.base.toNat := BitVec.toNat_sub_of_le hlow
  exact ⟨hlocal, hlow, by omega⟩

/-! ### The attach that keeps failing (40_bus.md R80) -/

/-- The checks of BUS_ATTACH all pass (R80). -/
def Attachable (s : State) (dev : Byte) : Prop :=
  ∃ d sz, s.pool[dev.toNat]? = some d ∧ d.cap.sizePages? = some sz ∧ sz ≠ 0x00#8
    ∧ (∀ sl ∈ s.slots, sl.dev ≠ dev) ∧ s.nextPage.toNat + sz.toNat ≤ 256

/-- A device that can be attached after a command could be attached before it: the pool never changes, and the table
and the page counter only grow. -/
theorem Attachable.before_effect {i : Instr} {s : State} {dev : Byte} (h : Attachable (effect i s) dev) :
    Attachable s dev := by
  obtain ⟨d, sz, hd, hsz, hpos, hnew, hfit⟩ := h
  obtain ⟨⟨more, hslots⟩, hnext⟩ := effect_grows i s
  rw [effect_pool] at hd
  rw [hslots] at hnew
  exact ⟨d, sz, hd, hsz, hpos, fun sl hm => hnew sl (List.mem_append_left _ hm), by omega⟩

/-- What makes an attach fail: the block is halted, or some check does not pass. -/
def AttachFails (dev : Byte) (s : State) : Prop := s.halted = true ∨ ¬Attachable s dev

theorem AttachFails.after_effect {dev : Byte} {s : State} (h : AttachFails dev s) (i : Instr) :
    AttachFails dev (effect i s) := by
  obtain hh | hno := h
  · obtain ⟨r, -, hlatch⟩ := effect_responds i s
    exact .inl (by rw [hlatch, hh, Bool.true_or])
  · exact .inr fun hcan => hno hcan.before_effect

theorem AttachFails.after_exec {dev : Byte} {s t : State} {i : Instr} (h : AttachFails dev s)
    (hexec : exec i s = .next t) : AttachFails dev t := by
  obtain ⟨hh, rfl⟩ | ⟨-, rfl⟩ := exec_next.1 hexec
  · exact .inl (by simp [hh])
  · exact h.after_effect i

theorem AttachFails.after_step {dev : Byte} {s t : State} (h : AttachFails dev s) (hstep : step s = .next t) :
    AttachFails dev t := by
  cases hh : s.halted with
  | true => exact .inl (step_keeps_halted hstep hh)
  | false =>
    obtain ⟨c, rest, -, ⟨hhalted, -⟩ | ⟨-, -, rfl⟩ | ⟨i, -, -, rfl⟩⟩ := step_next hstep
    · cases hh.symm.trans hhalted
    · exact .inr (h.resolve_left (by simp [hh]))
    · exact AttachFails.after_effect (s := { s with commands := rest }) h i

/-- On a running block an attach whose checks pass answers the base of its slot. -/
theorem exec_busAttach_of_attachable {s : State} {dev : Byte} (hh : s.halted = false) (h : Attachable s dev) :
    ∃ u, exec (.busAttach dev) s = .next u ∧ u.lastResponse = some (.ok s.nextBase) := by
  obtain ⟨d, sz, hd, hsz, hpos, hnew, hfit⟩ := h
  have hcheck := State.attachCheck_of_sized hd hsz
  rw [if_neg hpos, State.isAttached_eq_false_iff.2 hnew, if_neg Bool.false_ne_true,
    if_neg (Nat.not_lt.2 hfit)] at hcheck
  exact ⟨_, exec_busAttach_of_check_ok hh hcheck, rfl⟩

/-- An attach answers an error exactly when it must fail. -/
theorem isError_iff_attachFails {s t : State} {dev : Byte} {r : Response} (hexec : exec (.busAttach dev) s = .next t)
    (hr : t.lastResponse = some r) : r.isError ↔ AttachFails dev s := by
  obtain ⟨hh, rfl⟩ | ⟨hh, rfl⟩ := exec_next.1 hexec
  · rw [State.lastResponse_raise, Option.some.injEq] at hr
    subst hr
    exact iff_of_true nofun (.inl hh)
  · refine ⟨fun herr => .inr fun hcan => ?_, fun hfails => ?_⟩
    · obtain ⟨u, hu, hok⟩ := exec_busAttach_of_attachable hh hcan
      exact herr _ (Option.some.inj (hr.symm.trans (lastResponse_of_exec hexec hu hok)))
    · obtain ⟨r', herr, -, heff⟩ | ⟨d, sz, hd, hsz, hpos, hnew, hfit, -⟩ := effect_attach_cases dev s
      · rw [heff, State.lastResponse_raise, Option.some.injEq] at hr
        exact hr ▸ herr
      · exact absurd ⟨d, sz, hd, hsz, hpos, hnew, hfit⟩ (hfails.resolve_left (by simp [hh]))

/-- Settles O26: a halted block stays halted, and a check that does not pass never passes again. -/
theorem failedAttachKeepsFailing : Obligations.FailedAttachKeepsFailing := by
  intro s t u v dev r r' n hexec hr herr hrun hexec' hr'
  have hs := (isError_iff_attachFails hexec hr).1 herr
  have hu := run_keeps (fun _ _ => AttachFails.after_step) n t u (hs.after_exec hexec) hrun
  exact (isError_iff_attachFails hexec' hr').2 hu

/-! ### The mapped address that stays mapped (40_bus.md R80) -/

/-- The scan finds its hit before any slot added at the end. -/
theorem State.lookup_of_append {s t : State} {more : List Slot} {addr : Half} {sl : Slot}
    (hslots : t.slots = s.slots ++ more) (hl : s.lookup addr = some sl) : t.lookup addr = some sl := by
  unfold State.lookup at hl ⊢
  rw [hslots, List.find?_append, hl, Option.some_or]

/-- What a byte of the space reads as, by the owner that the lookup finds. -/
theorem State.peek_eq_bind_lookup (s : State) (addr : Half) :
    s.peek addr = (s.lookup addr).bind fun sl =>
      (s.behaviourOf sl.dev).map fun b => (devRead b (s.deviceState sl.dev) (sl.local addr)).1 := by
  unfold State.peek State.route
  cases s.lookup addr with
  | none => rfl
  | some sl => cases hb : s.behaviourOf sl.dev <;> simp [hb]

/-- Settles O27: a step adds slots at the end of the table, behind the hit; an attach writes nothing else of the bus. -/
theorem mappedAddressStaysMapped : Obligations.MappedAddressStaysMapped := by
  refine ⟨fun s t addr sl hl hstep => ?_, fun s t addr dev hmapped hexec => ?_⟩
  · obtain ⟨⟨more, hslots⟩, -⟩ := step_grows hstep
    exact State.lookup_of_append hslots hl
  · obtain ⟨sl, hl⟩ := Option.ne_none_iff_exists'.1 hmapped
    obtain ⟨-, rfl⟩ | ⟨-, rfl⟩ := exec_next.1 hexec
    · rfl
    · obtain ⟨r, -, -, heff⟩ | ⟨d, sz, -, -, -, -, -, heff⟩ := effect_attach_cases dev s <;> rw [heff]
      · rfl
      · rw [State.peek_eq_bind_lookup, State.peek_eq_bind_lookup, hl,
          State.lookup_of_append (t := (s.appendSlot dev sz).respond (.ok s.nextBase)) rfl hl]
        rfl

/-! ### The state of a device (10_state.md R26) -/

/-- A command leaves every device state as it was, or it is an access, and the state of the owner becomes one of the
owner's own kind. -/
theorem effect_devstate_cases (i : Instr) (s : State) :
    (effect i s).devstate = s.devstate
    ∨ ∃ addr sl b st, Accesses i addr ∧ s.lookup addr = some sl ∧ s.behaviourOf sl.dev = some b
        ∧ (effect i s).devstate = s.devstate.set sl.dev.toNat st
        ∧ (b.accepts (s.deviceState sl.dev) = true → b.accepts st = true) := by
  cases hi : i.isBus with
  | false =>
    obtain ⟨hbus, -⟩ := effect_register hi s
    exact .inl (congrArg (·.2.2.1) hbus)
  | true =>
    obtain ⟨addr, ha⟩ | ⟨dev, rfl⟩ := isBus_cases hi
    · obtain ⟨-, heff⟩ | ⟨_, -, -, heff⟩ | ⟨sl, b, st, r, hl, hb, heff, -, hst⟩ := effect_access_cases ha s
      · exact .inl (heff ▸ rfl)
      · exact .inl (heff ▸ rfl)
      · refine .inr ⟨addr, sl, b, st, ha, hl, hb, heff ▸ rfl, fun hacc => ?_⟩
        obtain ⟨-, rfl⟩ | ⟨data, -, rfl⟩ := hst
        · exact devRead_accepts _ hacc
        · exact devWrite_accepts _ data hacc
    · obtain ⟨_, -, -, heff⟩ | ⟨_, _, -, -, -, -, -, heff⟩ := effect_attach_cases dev s <;> exact .inl (heff ▸ rfl)

/-- Settles O30: the one device state a command can store is that of the slot its address has. -/
theorem deviceStateChangesOnlyThroughTheBus : Obligations.DeviceStateChangesOnlyThroughTheBus := by
  intro s t i hexec
  obtain ⟨-, rfl⟩ | ⟨-, rfl⟩ := exec_next.1 hexec
  · exact ⟨rfl, rfl, fun d hd => absurd rfl hd⟩
  refine ⟨effect_pool i s, ?_⟩
  obtain heff | ⟨addr, sl, b, st, hi, hl, -, heff, -⟩ := effect_devstate_cases i s <;> rw [heff]
  · exact ⟨rfl, fun d hd => absurd rfl hd⟩
  · refine ⟨List.length_set, fun d hd => ⟨addr, sl, hi, hl, ?_⟩⟩
    by_contra hne
    exact hd (List.getElem?_set_ne hne)

/-! ### The device invariants (20_memory.md R45) -/

/-- The invariants speak of the pool and the device states alone. -/
theorem DeviceInv.congr {s t : State} (h : DeviceInv s) (hpool : t.pool = s.pool)
    (hdevstate : t.devstate = s.devstate) : DeviceInv t where
  pool_size := hpool ▸ h.pool_size
  one_state_each := hpool ▸ hdevstate ▸ h.one_state_each
  own_kind := hpool ▸ hdevstate ▸ h.own_kind

/-- A device with a behaviour is a device of the pool, and its descriptor accepts what the behaviour accepts. -/
theorem State.descriptor_of_behaviourOf {s : State} {dev : Byte} {b : Behaviour} (hb : s.behaviourOf dev = some b) :
    ∃ d, s.pool[dev.toNat]? = some d ∧ d.accepts = b.accepts := by
  rw [State.behaviourOf_eq] at hb
  obtain ⟨d, hd, hcap⟩ := Option.bind_eq_some_iff.1 hb
  exact ⟨d, hd, by funext st; simp only [Descriptor.accepts, hcap]⟩

theorem DeviceInv.getElem?_devstate {s : State} (h : DeviceInv s) {dev : Byte} {d : Descriptor}
    (hd : s.pool[dev.toNat]? = some d) : s.devstate[dev.toNat]? = some (s.deviceState dev) := by
  obtain ⟨hlt, -⟩ := List.getElem?_eq_some_iff.1 hd
  rw [← h.one_state_each] at hlt
  rw [State.deviceState, deviceId_eq, List.getD_eq_getElem _ _ hlt, List.getElem?_eq_getElem hlt]

/-- The state of an Addressable device is of its behaviour's kind. -/
theorem DeviceInv.accepts_deviceState {s : State} (h : DeviceInv s) {dev : Byte} {b : Behaviour}
    (hb : s.behaviourOf dev = some b) : b.accepts (s.deviceState dev) = true := by
  obtain ⟨d, hd, hacc⟩ := State.descriptor_of_behaviourOf hb
  exact hacc ▸ h.own_kind dev.toNat d _ hd (h.getElem?_devstate hd)

/-- Storing a state of the device's own kind keeps the invariants. -/
theorem DeviceInv.setDeviceState {s : State} (h : DeviceInv s) {dev : Byte} {b : Behaviour} {st : DevState}
    (hb : s.behaviourOf dev = some b) (hst : b.accepts st = true) : DeviceInv (s.setDeviceState dev st) where
  pool_size := h.pool_size
  one_state_each := List.length_set.trans h.one_state_each
  own_kind k desc st' hk hst' := by
    obtain ⟨d, hd, hacc⟩ := State.descriptor_of_behaviourOf hb
    simp only [State.setDeviceState_pool, State.setDeviceState_devstate, deviceId_eq, List.getElem?_set] at hk hst'
    split_ifs at hst' with heq hlt
    · obtain rfl : st = st' := Option.some.inj hst'
      obtain rfl : desc = d := Option.some.inj (hk.symm.trans (heq ▸ hd))
      exact hacc ▸ hst
    · exact h.own_kind k desc st' hk hst'

theorem DeviceInv.after_effect {s : State} (h : DeviceInv s) (i : Instr) : DeviceInv (effect i s) := by
  obtain heff | ⟨addr, sl, b, st, -, -, hb, heff, hkeeps⟩ := effect_devstate_cases i s
  · exact h.congr (effect_pool i s) heff
  · exact (h.setDeviceState hb (hkeeps (h.accepts_deviceState hb))).congr (effect_pool i s) heff

/-- Settles O43: the one state a step can store is what the owner's read or write leaves, of the owner's own kind. -/
theorem everyStepKeepsTheDeviceInvariants : Obligations.EveryStepKeepsTheDeviceInvariants := by
  intro s t h hstep
  obtain ⟨c, rest, -, ⟨-, rfl⟩ | ⟨-, -, rfl⟩ | ⟨i, -, -, rfl⟩⟩ := step_next hstep
  · exact h.congr rfl rfl
  · exact h.congr rfl rfl
  · exact (h.congr rfl rfl : DeviceInv { s with commands := rest }).after_effect i

/-- Reset over a well-formed pool gives each device the initial state of its descriptor. -/
theorem DeviceInv.of_reset {pool : List Descriptor} (h : poolWf pool = true) : DeviceInv (State.resetWith pool) := by
  rw [poolWf, Bool.and_eq_true, decide_eq_true_eq, List.all_eq_true] at h
  obtain ⟨hsize, hinit⟩ := h
  refine ⟨hsize, List.length_map _, fun k desc st hk hst => ?_⟩
  have hst : pool[k]?.map Descriptor.init = some st := List.getElem?_map.symm.trans hst
  rw [show pool[k]? = some desc from hk, Option.map_some, Option.some.injEq] at hst
  exact hst ▸ hinit desc (List.mem_of_getElem? hk)

/-- Settles O41: nothing is mapped, and each device has its initial state, which its descriptor accepts. -/
theorem resetIsSafe : Obligations.ResetIsSafe :=
  fun _ hwf => ⟨.of_empty rfl rfl, .of_reset hwf⟩

/-! ### The bytes an access leaves alone (40_bus.md R84) -/

theorem State.deviceState_setDeviceState_of_ne {s : State} {dev dev' : Byte} (h : dev' ≠ dev) (st : DevState) :
    (s.setDeviceState dev st).deviceState dev' = s.deviceState dev' := by
  have hne : dev.toNat ≠ dev'.toNat := fun heq => h (BitVec.eq_of_toNat_eq heq.symm)
  simp only [State.deviceState, State.setDeviceState_devstate, deviceId_eq, List.getD_eq_getElem?_getD,
    List.getElem?_set_ne hne]

/-- (I6) two slots that the lookup finds are of different devices. -/
theorem BusInv.dev_ne_of_lookup {s : State} (h : BusInv s) {addr addr' : Half} {sl sl' : Slot}
    (hl : s.lookup addr = some sl) (hl' : s.lookup addr' = some sl') (hne : sl' ≠ sl) : sl'.dev ≠ sl.dev := by
  obtain ⟨⟨j, hj⟩, -⟩ := State.lookup_some hl
  obtain ⟨⟨k, hk⟩, -⟩ := State.lookup_some hl'
  refine h.once_each k j sl' sl hk hj ?_
  rintro rfl
  exact hne (Option.some.inj (hk.symm.trans hj))

/-- Settles O19: an access stores one device state, its owner's, and (I6) the owner of an address in another slot is
another device. -/
theorem accessLeavesOtherDevicesBytes : Obligations.AccessLeavesOtherDevicesBytes := by
  intro s t i addr other h hi hexec hother
  obtain ⟨-, rfl⟩ | ⟨-, rfl⟩ := exec_next.1 hexec
  · rfl
  · obtain ⟨-, heff⟩ | ⟨_, -, -, heff⟩ | ⟨sl, b, st, r, hl, -, heff, -⟩ := effect_access_cases hi s <;> rw [heff]
    · rfl
    · rfl
    · refine State.peek_congr (s := s) (t := (s.setDeviceState sl.dev st).raise r) rfl rfl other fun sl' hl' => ?_
      have hne : sl' ≠ sl := by
        rintro rfl
        exact hother (hl'.trans hl.symm)
      exact State.deviceState_setDeviceState_of_ne (h.dev_ne_of_lookup hl hl' hne) st

/-! ### The one byte a write to a storing device changes (20_memory.md R58) -/

/-- In one slot, different addresses have different local addresses. -/
theorem Slot.local_injective (sl : Slot) : Function.Injective sl.local :=
  fun _ _ h => sub_left_injective (b := sl.base) h

theorem wf_stateBytes_of_accepts {st : DevState} (h : Behaviour.ram.accepts st = true) : (stateBytes st).wf = true := by
  cases st with
  | bytes m => exact h
  | none | count | code => cases h

theorem DeviceInv.deviceState_setDeviceState_same {s : State} (h : DeviceInv s) {dev : Byte} {b : Behaviour}
    (hb : s.behaviourOf dev = some b) (st : DevState) : (s.setDeviceState dev st).deviceState dev = st := by
  obtain ⟨d, hd, -⟩ := State.descriptor_of_behaviourOf hb
  obtain ⟨hlt, -⟩ := List.getElem?_eq_some_iff.1 (h.getElem?_devstate hd)
  rw [State.deviceState, State.setDeviceState_devstate, deviceId_eq, List.getD_eq_getElem?_getD,
    List.getElem?_set_self hlt, Option.getD_some]

/-- A byte of a storing device, at an address of its slot. -/
theorem State.peek_of_ram {s : State} {addr : Half} {sl : Slot} (hl : s.lookup addr = some sl)
    (hb : s.behaviourOf sl.dev = some .ram) :
    s.peek addr = some (.byte (memRead (stateBytes (s.deviceState sl.dev)) (sl.local addr).toNat)) := by
  rw [State.peek_eq_bind_lookup, hl, Option.bind_some, hb]
  rfl

/-- A running block answers a read with the byte that the address reads as. -/
theorem exec_busRead_of_peek {s : State} {addr : Half} {v : Byte} (hh : s.halted = false)
    (hpeek : s.peek addr = some (.byte v)) :
    ∃ u, exec (.busRead addr) s = .next u ∧ u.lastResponse = some (.ok (zext16 v)) := by
  unfold State.peek at hpeek
  cases hroute : s.route addr with
  | error r => simp [hroute] at hpeek
  | ok tg =>
    rw [hroute, Option.some.injEq] at hpeek
    exact ⟨_, exec_busRead_of_route hh hroute, by rw [State.lastResponse_raise, hpeek, Response.ofRead]⟩

/-- After the store of one byte of a storing device, its slot reads that byte there and all others as before. -/
theorem peek_setDeviceState_memWrite {s : State} (h : DeviceInv s) {addr other : Half} {sl : Slot} (data : Byte)
    (hl : s.lookup other = some sl) (hb : s.behaviourOf sl.dev = some .ram) :
    (s.setDeviceState sl.dev
        (.bytes (memWrite (stateBytes (s.deviceState sl.dev)) (sl.local addr).toNat data))).peek other =
      if other = addr then some (.byte data) else s.peek other := by
  have hwf := wf_stateBytes_of_accepts (h.accepts_deviceState hb)
  have hiff : (sl.local other).toNat = (sl.local addr).toNat ↔ other = addr :=
    BitVec.toNat_inj.trans sl.local_injective.eq_iff
  rw [State.peek_of_ram (s := s.setDeviceState _ _) hl hb, h.deviceState_setDeviceState_same hb, stateBytes,
    memRead_memWrite hwf, State.peek_of_ram hl hb]
  simp only [hiff]
  split_ifs <;> rfl

/-- On a running block a write to a storing device stores the byte and answers OK (40_bus.md R82). -/
theorem exec_busWrite_of_ram {s : State} {addr : Half} {sl : Slot} (data : Byte) (hh : s.halted = false)
    (hl : s.lookup addr = some sl) (hb : s.behaviourOf sl.dev = some .ram) :
    exec (.busWrite addr data) s = .next ((s.setDeviceState sl.dev
      (.bytes (memWrite (stateBytes (s.deviceState sl.dev)) (sl.local addr).toNat data))).respond (.ok noValue)) := by
  rw [exec_running hh]
  simp only [effect, State.busWrite, State.route_of_owner hl hb]
  rfl

/-- Settles O31: the write stores one byte of the owner's and answers OK, so its own slot reads the byte there and as
before elsewhere, and the other slots are other devices. -/
theorem ramWriteChangesOneByte : Obligations.RamWriteChangesOneByte := by
  intro s addr sl data hbus hdev hh hl hb
  have hexec := exec_busWrite_of_ram data hh hl hb
  have hpeek {other : Half} (hother : s.lookup other = some sl) :=
    peek_setDeviceState_memWrite hdev (addr := addr) data hother hb
  have hwritten := (hpeek hl).trans (if_pos rfl)
  refine ⟨_, hexec, hwritten, fun other hne => ?_, exec_busRead_of_peek hh hwritten⟩
  by_cases hother : s.lookup other = some sl
  · exact (hpeek hother).trans (if_neg hne)
  · exact accessLeavesOtherDevicesBytes s _ _ addr other hbus (.inr ⟨data, rfl⟩) hexec (hl ▸ hother)

end Sys2Proof.Machine
end
